-- ==== Sys2Proof/Word.lean ====
section
/-! DEFINITION. The widths of the block (00_scope.md R10): words of 16 bits, masks of 8, codes and selectors of 4.
All values are unsigned and bit 0 is the least significant (R11). -/

namespace Sys2Proof

/-- A CommandWord or ReplyWord: `WORD_W` = 16 bits (R10, R80). -/
abbrev Word := BitVec 16

/-- A ChannelMask: `MASK_W` = 8 bits, bit `i` = channel `i + 1` (R10, R21). -/
abbrev Mask := BitVec 8

/-- A 4-bit mode code as an operation's operand carries it (R91). -/
abbrev ModeCode := BitVec 4

/-- A 4-bit operation selector (R93, R94). -/
abbrev OpSel := BitVec 4

end Sys2Proof
end

