-- ==== Sys2Proof/Config.lean ====
section
/-! DEFINITION. What one build of the block fixes (its parameters, 00_scope.md R10) and the free values:
constants without a body, of which nothing can be proved. -/

namespace Sys2Proof

/-- The three functional registers of a chip (00_scope.md R13). -/
inductive Mode
  | protect
  | diag
  | output
  deriving DecidableEq, Repr

/-- The open parameters of the block (R10): any number of chips from 1 and any three distinct mode codes
(30_encoding.md R85; D1, D2). A state carries them, so that every claim about all states is a claim about all
parameters (assumption 1). -/
structure Config where
  nChips : Nat
  codeProtect : ModeCode
  codeDiag : ModeCode
  codeOutput : ModeCode
  deriving DecidableEq, Repr

/-- What `T_INIT` can answer (44_transport_system.md R183). -/
inductive InitAnswer
  | ok
  | fail
  deriving DecidableEq, Repr, Inhabited

/-- What `T_TRANSFER` can answer: ok with the 16-bit reply in wire order, or fail with none (R186, D29). -/
inductive TransferAnswer
  | ok (reply : Word)
  | fail
  deriving DecidableEq, Repr, Inhabited

namespace Config

/-- The configuration with `extra + 1` chips, `CODE_PROTECT = p`, and the two other codes at distances from `p`
that differ from each other: every legal configuration is one of these and each of these is legal
(`Laws.Config.ofSeeds_wf`, `Laws.Config.ofSeeds_surjective`). -/
def ofSeeds (extra : Nat) (p : ModeCode) (d : Fin 15) (e : Fin 14) : Config where
  nChips := extra + 1
  codeProtect := p
  codeDiag := p + BitVec.ofNat 4 (d.val + 1)
  codeOutput := p + BitVec.ofNat 4 (if e.val < d.val then e.val + 1 else e.val + 2)

/-- FREE (assumption 1): the number of chips beyond the first (D2). -/
opaque freeExtraChips : Nat

/-- FREE (assumption 1): the code of PROTECT (D1). -/
opaque freeCodeProtect : ModeCode

/-- FREE (assumption 1): settles the code of DIAG (D1). -/
opaque freeDiagSeed : Fin 15

/-- FREE (assumption 1): settles the code of OUTPUT (D1). -/
opaque freeOutputSeed : Fin 14

/-- The configuration of the machine that `State.reset` describes: legal, and otherwise unknown. -/
def built : Config := ofSeeds freeExtraChips freeCodeProtect freeDiagSeed freeOutputSeed

/-- FREE (assumption 2): the answer of the `n`-th `T_INIT` that no listed answer serves (R188, U8). -/
opaque freeInitAnswer : Nat → InitAnswer

/-- FREE (assumption 2): the answer of the `n`-th `T_TRANSFER` that no listed answer serves (R188, U2, U8). -/
opaque freeTransferAnswer : Nat → TransferAnswer

/-- The instantiation `REF` of R85, for test vectors only (from general knowledge, G1; not normative). -/
def ref (n : Nat) : Config := ⟨n, 0xA#4, 0x3#4, 0xC#4⟩

/-- The instantiation `ALT` of R85, for test vectors only (arbitrary; not normative). -/
def alt (n : Nat) : Config := ⟨n, 0x1#4, 0x2#4, 0x3#4⟩

end Config

end Sys2Proof
end

