-- ==== Sys2Proof/Syntax.lean ====
section
/-! DEFINITION. The instructions, one constructor per row of spec/opcode_table.json, and the forms in which they are
presented on the block's ports (30_encoding.md R80, R93, R94). -/

namespace Sys2Proof

/-- One constructor per row of spec/opcode_table.json. Chip and channel operands are natural numbers, which makes
every out-of-range value expressible (R10, D4). -/
inductive Instr
  /-- INIT, op 0x0 (R190). -/
  | init
  /-- SET_PROTECTION, op 0x1 (R141). -/
  | setProtection (chip channel : Nat) (enabled : Bool)
  /-- SET_DIAGNOSTICS, op 0x2 (R142). -/
  | setDiagnostics (chip channel : Nat) (enabled : Bool)
  /-- SET_OUTPUT, op 0x3 (R143). -/
  | setOutput (chip channel : Nat) (enabled : Bool)
  /-- SET_MULTIPLE_PINS, op 0x4 (R146; the chip operand is added by C5). -/
  | setMultiplePins (chip : Nat) (mode : ModeCode) (mask : Mask)
  /-- TARGETED, op 0x5 (R165). -/
  | targeted (chip : Nat) (mode : ModeCode) (mask : Mask)
  /-- BROADCAST, op 0x6 (R166). -/
  | broadcast (mode : ModeCode) (mask : Mask)
  /-- CACHE_GET, op 0x7 (R130). -/
  | cacheGet (chip : Nat) (mode : ModeCode)
  /-- RESERVED_OP, op 0x8 to 0xF (R97). -/
  | reservedOp (op : OpSel)
  /-- WR_PROTECT, the bus word that writes a chip's protection register (R95). -/
  | wrProtect (mask : Mask)
  /-- WR_DIAG, the bus word that writes a chip's diagnostic register (R95). -/
  | wrDiag (mask : Mask)
  /-- WR_OUTPUT, the bus word that writes a chip's output register (R95). -/
  | wrOutput (mask : Mask)
  /-- REPLY, the reply word from a chip, in wire order (R87). -/
  | reply (word : Word)
  /-- ENCODE (R113). -/
  | encode (mode : ModeCode) (mask : Mask)
  /-- DECODE; the operand is in wire order (R116). -/
  | decode (word : Word)
  /-- REV16 (R110). -/
  | rev16 (v : Word)
  /-- CACHE_SET, internal (R131); the mode is already resolved. -/
  | cacheSet (chip : Nat) (m : Mode) (mask : Mask)
  /-- TRANSACT, internal (R161). -/
  | transact (k : Nat) (m : Mode) (v : Mask)
  /-- T_INIT, call on Transport (R183). -/
  | tInit
  /-- T_SELECT, call on Transport (R184). -/
  | tSelect (k : Nat)
  /-- T_DESELECT, call on Transport (R185). -/
  | tDeselect (k : Nat)
  /-- T_TRANSFER, call on Transport; the operand is in wire order (R186). -/
  | tTransfer (w : Word)
  /-- ENABLE_PWM, outside the block (R195). -/
  | enablePwm (channel : Nat)
  deriving DecidableEq, Repr

/-- The host's request record, format `REQ` (R93): separate fields, of which an operation reads only its own. -/
structure Request where
  op : OpSel
  chip : Nat := 0
  channel : Nat := 0
  enabled : Bool := false
  mode : ModeCode := 0#4
  mask : Mask := 0#8
  deriving DecidableEq, Repr

/-- What can stand on the ports: an instruction in the form in which it is presented. -/
inductive Port
  /-- A request of the host (R93). -/
  | request (r : Request)
  /-- A 16-bit command word on the shared data line, in wire order (R82). -/
  | busWord (w : Word)
  /-- A 16-bit reply word from a chip, in wire order (R87). -/
  | replyWord (w : Word)
  /-- The operands of ENCODE on its own port (R94). -/
  | encodePort (mode : ModeCode) (mask : Mask)
  /-- The operand of DECODE on its own port (R94). -/
  | decodePort (w : Word)
  /-- The separate PWM interface (R195). -/
  | pwmPort (channel : Nat)
  deriving DecidableEq, Repr

end Sys2Proof
end

