-- ==== Sys2Proof/WellFormed.lean ====
section
/-! DEFINITION. When a configuration and an instruction are well formed. Operands of host operations are not
restricted: the operations check them and report a status (60_exceptions.md R208). -/

namespace Sys2Proof

/-- Legal parameters: at least one chip (D2), pairwise distinct mode codes (30_encoding.md R85). -/
def Config.wf (c : Config) : Bool :=
  decide (1 ≤ c.nChips) && decide (c.codeProtect ≠ c.codeDiag) && decide (c.codeProtect ≠ c.codeOutput)
    && decide (c.codeDiag ≠ c.codeOutput)

/-- A chip index of the configured chain, 1 to `N_CHIPS` (R92). -/
def Config.hasChip (c : Config) (k : Nat) : Bool := decide (1 ≤ k) && decide (k ≤ c.nChips)

/-- Reserved selectors are 0x8 to 0xF (R97); a micro-operation's chip index is already checked to be in
1..`N_CHIPS` (R131, R161, R184, R185); every other operand is free. -/
def Instr.wf (c : Config) : Instr → Bool
  | .reservedOp op => decide (8 ≤ op.toNat)
  | .cacheSet k _ _ => c.hasChip k
  | .transact k _ _ => c.hasChip k
  | .tSelect k => c.hasChip k
  | .tDeselect k => c.hasChip k
  | .init => true
  | .setProtection _ _ _ => true
  | .setDiagnostics _ _ _ => true
  | .setOutput _ _ _ => true
  | .setMultiplePins _ _ _ => true
  | .targeted _ _ _ => true
  | .broadcast _ _ => true
  | .cacheGet _ _ => true
  | .wrProtect _ => true
  | .wrDiag _ => true
  | .wrOutput _ => true
  | .reply _ => true
  | .encode _ _ => true
  | .decode _ => true
  | .rev16 _ => true
  | .tInit => true
  | .tTransfer _ => true
  | .enablePwm _ => true

end Sys2Proof
end

