-- ==== Sys2Proof/Machine/Bits.lean ====
section
/-! DEFINITION. FrameCodec's functions of bits alone (40_codec.md): reversal, packing, the mode codes, encode and
decode, and the order of bits in time on the data line (20_memory.md R54, R55). -/

namespace Sys2Proof

/-- `rev16(v)`: bit `i` of the result is bit `15 - i` of `v` (R110). -/
def rev16 (v : Word) : Word := v.reverse

/-- `rev8`, used to state derived forms (R110). -/
def rev8 (v : Mask) : Mask := v.reverse

/-- `rev4`, used to state derived forms (R110). -/
def rev4 (v : ModeCode) : ModeCode := v.reverse

/-- The constant address field `1010b` (30_encoding.md R83). -/
def busAddress : BitVec 4 := 0xA#4

/-- `PACK(code, mask) = 1010b ++ code ++ mask`, the logical word (R112). -/
def pack (code : ModeCode) (mask : Mask) : Word := busAddress ++ code ++ mask

/-- The wire word of a code and a mask: the whole logical word reversed (R82, R113; C1). -/
def wireWord (code : ModeCode) (mask : Mask) : Word := rev16 (pack code mask)

/-- `CODE(m)` (00_scope.md R13). -/
def Config.code (c : Config) : Mode → ModeCode
  | .protect => c.codeProtect
  | .diag => c.codeDiag
  | .output => c.codeOutput

/-- `MODE_OF(code)`: the mode whose code it is, none if it is none of the three (R13). -/
def Config.modeOf (c : Config) (code : ModeCode) : Option Mode :=
  if code = c.codeProtect then some .protect
  else if code = c.codeDiag then some .diag
  else if code = c.codeOutput then some .output
  else none

/-- `ENCODE(mode, mask)`: none stands for `InvalidMode` (R113). -/
def frameEncode (c : Config) (code : ModeCode) (mask : Mask) : Option Word :=
  match c.modeOf code with
  | none => none
  | some _ => some (wireWord code mask)

/-- `DECODE(word)`: the low byte of the reversed word, for every word (R116). -/
def frameDecode (word : Word) : Mask := (rev16 word).extractLsb' 0 8

/-- The bits of a 16-bit value in the order in which Transport moves them: bit 15 first (R54, R189; D5). -/
def serialBits (w : Word) : List Bool := (List.range 16).map fun i => w.getLsbD (15 - i)

/-- The value that Transport assembles from the bits received: the first at bit 15 (R55; D5). -/
def assembleBits (bs : List Bool) : Word := bs.foldl (fun acc b => acc.shiftConcat b) 0#16

end Sys2Proof
end

