-- ==== Sys2Proof/Decode.lean ====
section
/-! DEFINITION. From what stands on a port to an instruction, and back. Request records are decoded by their selector
(30_encoding.md R94), bus words by their address and mode fields (R95). -/

namespace Sys2Proof

/-- Why a 16-bit word is no command word of the block (R96). -/
inductive DecodeError
  /-- The address field is not `1010b`. -/
  | wrongAddress
  /-- The mode field is none of the three codes. -/
  | unknownModeCode
  deriving DecidableEq, Repr

/-- The operation a request record selects (R94). Fields the operation does not read are ignored (R93, U16). -/
def decodeRequest (r : Request) : Instr :=
  match r.op.toNat with
  | 0 => .init
  | 1 => .setProtection r.chip r.channel r.enabled
  | 2 => .setDiagnostics r.chip r.channel r.enabled
  | 3 => .setOutput r.chip r.channel r.enabled
  | 4 => .setMultiplePins r.chip r.mode r.mask
  | 5 => .targeted r.chip r.mode r.mask
  | 6 => .broadcast r.mode r.mask
  | 7 => .cacheGet r.chip r.mode
  | _ => .reservedOp r.op

/-- The mode and mask that a logical word carries (R81): address in bits 15..12, code in 11..8, mask in 7..0. -/
def commandFields (c : Config) (l : Word) : Except DecodeError (Mode × Mask) :=
  if l.extractLsb' 12 4 = busAddress then
    match c.modeOf (l.extractLsb' 8 4) with
    | some m => .ok (m, l.extractLsb' 0 8)
    | none => .error .unknownModeCode
  else .error .wrongAddress

/-- The bus word that writes mode `m` (R95). -/
def writeInstr : Mode → Mask → Instr
  | .protect, v => .wrProtect v
  | .diag, v => .wrDiag v
  | .output, v => .wrOutput v

/-- A command word in logical order (R95). -/
def decodeLogical (c : Config) (l : Word) : Except DecodeError Instr :=
  match commandFields c l with
  | .ok mv => .ok (writeInstr mv.1 mv.2)
  | .error e => .error e

/-- A command word in wire order: the logical word is its reversal (R82). -/
def decodeWire (c : Config) (w : Word) : Except DecodeError Instr := decodeLogical c (rev16 w)

/-- What stands on a port, as an instruction. -/
def decodeInput (c : Config) : Port → Except DecodeError Instr
  | .request r => .ok (decodeRequest r)
  | .busWord w => decodeWire c w
  | .replyWord w => .ok (.reply w)
  | .encodePort mode mask => .ok (.encode mode mask)
  | .decodePort w => .ok (.decode w)
  | .pwmPort ch => .ok (.enablePwm ch)

/-- The request record or word of an instruction, from the tables of R94 and R95; none for the rows the opcode
table gives no form (REV16 and the micro-operations). Unread request fields are zero. -/
def encode (c : Config) : Instr → Option Port
  | .init => some (.request { op := 0x0#4 })
  | .setProtection chip channel enabled => some (.request { op := 0x1#4, chip, channel, enabled })
  | .setDiagnostics chip channel enabled => some (.request { op := 0x2#4, chip, channel, enabled })
  | .setOutput chip channel enabled => some (.request { op := 0x3#4, chip, channel, enabled })
  | .setMultiplePins chip mode mask => some (.request { op := 0x4#4, chip, mode, mask })
  | .targeted chip mode mask => some (.request { op := 0x5#4, chip, mode, mask })
  | .broadcast mode mask => some (.request { op := 0x6#4, mode, mask })
  | .cacheGet chip mode => some (.request { op := 0x7#4, chip, mode })
  | .reservedOp op => some (.request { op })
  | .wrProtect mask => some (.busWord (wireWord c.codeProtect mask))
  | .wrDiag mask => some (.busWord (wireWord c.codeDiag mask))
  | .wrOutput mask => some (.busWord (wireWord c.codeOutput mask))
  | .reply w => some (.replyWord w)
  | .encode mode mask => some (.encodePort mode mask)
  | .decode w => some (.decodePort w)
  | .rev16 _ => none
  | .cacheSet _ _ _ => none
  | .transact _ _ _ => none
  | .tInit => none
  | .tSelect _ => none
  | .tDeselect _ => none
  | .tTransfer _ => none
  | .enablePwm ch => some (.pwmPort ch)

/-- What stands on the ports for a row of the opcode table whose bits are `w`: a selector (4 bits, one byte) with all
operand fields zero, or a 16-bit word, which the table writes in logical order and the line carries reversed. The
pattern of REPLY holds every word (R87) and overlaps those of R95: a word that is a command word is taken as one, any
other word as a reply (assumption 4). -/
def tablePort (c : Config) (nbits w : Nat) : Port :=
  if nbits ≤ 8 then .request { op := BitVec.ofNat 4 w }
  else
    match commandFields c (BitVec.ofNat 16 w) with
    | .ok _ => .busWord (rev16 (BitVec.ofNat 16 w))
    | .error _ => .replyWord (rev16 (BitVec.ofNat 16 w))

/-- The instruction the decoder reads from table bits `w`; none where bits stand above the form, or it refuses. -/
def decodeTableWord (nbits w : Nat) : Option Instr :=
  if w < 2 ^ (if nbits ≤ 8 then 4 else 16) then
    (decodeInput Config.built (tablePort Config.built nbits w)).toOption
  else none

end Sys2Proof
end

