-- ==== Sys2Proof/Machine/State.lean ====
section
/-! DEFINITION. The state of the block as plain data (10_state.md R20), the records it returns (00_scope.md R14), the
inputs it has from outside, and the state after reset (R36). -/

namespace Sys2Proof.Machine

/-- The six statuses of an operation (60_exceptions.md R200). -/
inductive Status
  | ok
  | channelOutOfRange
  | invalidMode
  | unknownChip
  | transportFailure
  | notInitialized
  deriving DecidableEq, Repr

/-- A Transport event: a call the block makes, with the answer where there is one (43_chain.md R160). -/
inductive Event
  | init (answer : InitAnswer)
  | select (k : Nat)
  | transfer (w : Word) (answer : TransferAnswer)
  | deselect (k : Nat)
  deriving DecidableEq, Repr

/-- The result record of R14; a field an operation does not produce is absent. -/
structure Result where
  status : Status
  failIndex : Option Nat := none
  mask : Option Mask := none
  word : Option Word := none
  replies : List (Nat × Mask) := []
  trace : List Event := []
  deriving DecidableEq, Repr

/-- Three masks: of the cache (R22), or the three registers of a peripheral chip (R34). -/
structure ChipState where
  protect : Mask
  diag : Mask
  output : Mask
  deriving DecidableEq, Repr

/-- All three masks 0x00 (R36). -/
def ChipState.zero : ChipState := ⟨0#8, 0#8, 0#8⟩

/-- The sequencer's phases (R29, R176). `NEXT` is no phase: it is part of `CHECK` and `UPDATE`. -/
inductive Phase
  | idle
  | busInit
  | check
  | select
  | transfer
  | deselect
  | update
  | done
  deriving DecidableEq, Repr

/-- The sequencer's phase, cursor and latches (R29 to R31). The last three fields hold what R176 makes the phases
`CHECK` and `DONE` use and R31 gives no name (assumption 24). -/
structure Sequencer where
  phase : Phase
  cur : Nat
  pendMode : Mode
  pendMask : Mask
  pendWord : Word
  pendAll : Bool
  pendAns : TransferAnswer
  pendChan : Option (Nat × Bool)
  pendStatus : Status
  pendFail : Option Nat
  deriving DecidableEq, Repr

/-- The sequencer after reset: `IDLE`; the other fields are unspecified by R36 and take the values that assumption 5
names. -/
def Sequencer.reset : Sequencer :=
  ⟨.idle, 0, .protect, 0#8, 0#16, false, .fail, none, .ok, none⟩

/-- The two levels of description (00_scope.md R9, assumption 14). -/
inductive Level
  | operation
  | event
  deriving DecidableEq, Repr

/-- What can happen to the block from outside, beside what stands on its ports. -/
inductive EnvEvent
  /-- The reset input is asserted (70_reset_and_hazards.md R230). -/
  | reset
  /-- From now on the Transport answers no call (44_transport_system.md R196; assumption 12). -/
  | transportHangs
  /-- Chip `k` takes these register values without a command of the block (hazard H3, R243; assumption 22). -/
  | chipChanges (k : Nat) (regs : ChipState)
  deriving DecidableEq, Repr

/-- One input of the machine. -/
inductive Input
  | port (p : Port)
  | env (e : EnvEvent)
  deriving DecidableEq, Repr

/-- Everything outside the block: what comes next on its inputs, the Transport's coming answers (R188,
assumption 2), and the registers of the peripheral chips (D31, assumption 7). -/
structure Env where
  inputs : List Input
  initAnswers : List InitAnswer
  transferAnswers : List TransferAnswer
  draws : Nat
  hung : Bool
  periph : List ChipState
  deriving DecidableEq, Repr

/-- The machine. Chip `k`'s entry of `cache`, `cs` and `env.periph` is the one at position `k - 1`. -/
structure State where
  /-- The parameters; no step changes them (R10, assumption 1). -/
  cfg : Config
  /-- `cache[1..N_CHIPS]` (R22). -/
  cache : List ChipState
  /-- `initialized` (R25). -/
  initialized : Bool
  /-- `cs[1..N_CHIPS]`, true = asserted (R26). -/
  cs : List Bool
  /-- `busy` (R28). -/
  busy : Bool
  /-- `phase`, `cur` and the latches (R29 to R31). -/
  seq : Sequencer
  /-- The replies gathered by the operation in flight (R176). -/
  replies : List (Nat × Mask)
  /-- The events of the operation in flight (R12, R160). -/
  trace : List Event
  /-- The record the last step returned to the host; read by no rule (R14, R32; assumption 3). -/
  result : Option Result
  /-- Whether an operation is one step or a walk of phases (R9; assumption 14). -/
  level : Level
  /-- What is outside the block. -/
  env : Env
  deriving DecidableEq, Repr

/-- Why the model stops. -/
inductive Fault
  /-- Raised by every meaning that makes a Transport call, of any of the four kinds, while the Transport is hung: the
  call never returns (R196; treatment `stuck`, U6). Safe: the machine stops where the hardware never goes on. -/
  | transportHung
  /-- Raised by CACHE_SET, TRANSACT, T_SELECT and T_DESELECT on a chip index outside 1..`N_CHIPS`, which does not
  exist (R50) and with which the block never issues them (R131, R161, R184, R185). Safe: the model stops. -/
  | noSuchChip
  deriving DecidableEq, Repr

/-- Why the model gives no meaning. -/
inductive Refusal
  /-- Raised by an arm of `exec` whose instruction has no meaning yet (there is none). Safe: the model stops. -/
  | notModelled (mnemonic : String)
  deriving DecidableEq, Repr

/-- The block after reset with parameters `c` (R36), the chips at their power-on default (R241, D31), nothing
presented and no answer listed. -/
def State.init (c : Config) : State where
  cfg := c
  cache := List.replicate c.nChips .zero
  initialized := false
  cs := List.replicate c.nChips false
  busy := false
  seq := .reset
  replies := []
  trace := []
  result := none
  level := .operation
  env := ⟨[], [], [], 0, false, List.replicate c.nChips .zero⟩

/-- The machine right after reset, for parameters of which nothing is known but that they are legal. -/
def State.reset : State := State.init Config.built

end Sys2Proof.Machine
end

