-- ==== Sys2Proof/Machine/Operands.lean ====
section
/-! DEFINITION. Operands: the masks of a chip by mode (00_scope.md R13), the channel as a mask bit (30_encoding.md
R89), the candidate mask (42_controller.md R140, R144). -/

namespace Sys2Proof.Machine

/-- The mask that belongs to a mode (R13). -/
def ChipState.get (c : ChipState) : Mode → Mask
  | .protect => c.protect
  | .diag => c.diag
  | .output => c.output

/-- The three masks with the one of mode `m` replaced (R131). -/
def ChipState.set (c : ChipState) (m : Mode) (v : Mask) : ChipState :=
  match m with
  | .protect => { c with protect := v }
  | .diag => { c with diag := v }
  | .output => { c with output := v }

/-- Entry of chip `k` in a list that starts with chip 1. -/
def chipEntry (l : List ChipState) (k : Nat) : ChipState := l.getD (k - 1) .zero

/-- The list with mode `m` of chip `k` replaced. -/
def setEntry (l : List ChipState) (k : Nat) (m : Mode) (v : Mask) : List ChipState :=
  l.set (k - 1) ((chipEntry l k).set m v)

/-- The list with mode `m` replaced for every chip whose select line is asserted. -/
def setSelected (m : Mode) (v : Mask) : List Bool → List ChipState → List ChipState
  | _, [] => []
  | [], l => l
  | b :: bs, c :: l => (if b then c.set m v else c) :: setSelected m v bs l

/-- The indices of the asserted lines of a list whose first line is that of chip `k`, in ascending order. -/
def assertedFrom (k : Nat) : List Bool → List Nat
  | [] => []
  | b :: bs => if b then k :: assertedFrom (k + 1) bs else assertedFrom (k + 1) bs

/-- `channel` is one of 1 to 8 (R50). -/
def channelValid (channel : Nat) : Bool := decide (1 ≤ channel) && decide (channel ≤ 8)

/-- `1 << (channel - 1)`, for a channel from 1 to 8 (R89). -/
def channelBit (channel : Nat) : Mask := 1#8 <<< (channel - 1)

/-- The candidate mask: the current one with the channel's bit set or cleared (R140 (c)). -/
def candidate (cur : Mask) (channel : Nat) (enabled : Bool) : Mask :=
  if enabled then cur ||| channelBit channel else cur &&& ~~~(channelBit channel)

end Sys2Proof.Machine
end

