-- ==== Sys2Proof/Machine/Flags.lean ====
section
/-! DEFINITION. The block has no condition codes (10_state.md R35). What plays their part is the status of an
operation: its numbers, its classes, and the order in which the checks of a request are made (60_exceptions.md). -/

namespace Sys2Proof.Machine

/-- The numeric status codes (R200, D10; assumption 23). -/
def Status.number : Status → BitVec 3
  | .ok => 0#3
  | .channelOutOfRange => 1#3
  | .invalidMode => 2#3
  | .unknownChip => 3#3
  | .transportFailure => 4#3
  | .notInitialized => 5#3

/-- The status of a number; 6 and 7 are never produced and stand for none (R200, U15). -/
def Status.ofNumber (n : BitVec 3) : Option Status :=
  match n.toNat with
  | 0 => some .ok
  | 1 => some .channelOutOfRange
  | 2 => some .invalidMode
  | 3 => some .unknownChip
  | 4 => some .transportFailure
  | 5 => some .notInitialized
  | _ => none

/-- The four validation errors (R200, R209). -/
def Status.isValidation : Status → Bool
  | .ok => false
  | .channelOutOfRange => true
  | .invalidMode => true
  | .unknownChip => true
  | .transportFailure => false
  | .notInitialized => true

/-- The validation checks of a request, in the order of R208: initialised, then the channel, the chip and the mode,
each where the operation has that operand. None: every check passed. -/
def State.validate (s : State) (channel : Option Nat) (chip : Option Nat) (mode : Option ModeCode) : Option Status :=
  if s.initialized = false then some .notInitialized
  else if channel.any (fun c => !channelValid c) then some .channelOutOfRange
  else if chip.any (fun k => !s.cfg.hasChip k) then some .unknownChip
  else if mode.any (fun c => (s.cfg.modeOf c).isNone) then some .invalidMode
  else none

end Sys2Proof.Machine
end

