-- ==== Sys2Proof/Machine/Ops.lean ====
section
/-! DEFINITION. The shared operations: the register file, the Transport calls, the transaction, the way an operation
ends (with a status, with an error), and reset. -/

namespace Sys2Proof.Machine

/-! ### Registers -/

/-- `cache[k].m`, for `k` in 1..`N_CHIPS` (R12, R22). -/
def State.maskAt (s : State) (k : Nat) (m : Mode) : Mask := (chipEntry s.cache k).get m

/-- CACHE_SET: `cache[k].m <- v` (41_cache.md R131). -/
def State.cacheSet (s : State) (k : Nat) (m : Mode) (v : Mask) : State :=
  { s with cache := setEntry s.cache k m v }

/-- A word that writes mode `m` reaches the chips: every selected one takes the mask (D31; assumption 7). -/
def State.chipsTake (s : State) (m : Mode) (v : Mask) : State :=
  { s with env := { s.env with periph := setSelected m v s.cs s.env.periph } }

/-- The pairs of a reply word: one for each selected chip, with the decoded fault mask (R164). -/
def State.selectedReplies (s : State) (w : Word) : List (Nat × Mask) :=
  (assertedFrom 1 s.cs).map fun k => (k, frameDecode w)

/-! ### Results -/

/-- An operation ends with a record of which only some fields are present; nothing else changes. -/
def State.give (s : State) (r : Result) : State := { s with result := some r }

/-- `raise <Error>`: the operation ends with the status and an empty trace, and leaves every piece of state as it
found it; there is no handler and no saved state (60_exceptions.md R209, R210). -/
def State.raise (s : State) (e : Status) : State := s.give { status := e }

/-- An operation starts to gather its events and replies. -/
def State.start (s : State) : State := { s with replies := [], trace := [] }

/-- The operation ends: its record takes the replies and events gathered, which the block does not keep (R32). -/
def State.finish (s : State) (status : Status) (failIndex : Option Nat) : State :=
  { s with
    result := some { status, failIndex, replies := s.replies, trace := s.trace }
    replies := []
    trace := [] }

/-! ### Transport calls (44_transport_system.md R183 to R188) -/

/-- A Transport call appends one event to the trace of the operation (R12). -/
def State.emit (s : State) (e : Event) : State := { s with trace := s.trace ++ [e] }

/-- The answer the next `T_INIT` gets: the first one listed, else a free value (R188; assumption 2). -/
def Env.nextInit (e : Env) : InitAnswer :=
  match e.initAnswers with
  | a :: _ => a
  | [] => Config.freeInitAnswer e.draws

/-- That answer is used up. -/
def Env.dropInit (e : Env) : Env :=
  match e.initAnswers with
  | _ :: as => { e with initAnswers := as }
  | [] => { e with draws := e.draws + 1 }

/-- The answer the next `T_TRANSFER` gets: the first one listed, else a free value (R188; assumption 2). -/
def Env.nextTransfer (e : Env) : TransferAnswer :=
  match e.transferAnswers with
  | a :: _ => a
  | [] => Config.freeTransferAnswer e.draws

/-- That answer is used up. -/
def Env.dropTransfer (e : Env) : Env :=
  match e.transferAnswers with
  | _ :: as => { e with transferAnswers := as }
  | [] => { e with draws := e.draws + 1 }

/-- The answer the next `T_INIT` gets. -/
def State.nextInit (s : State) : InitAnswer := s.env.nextInit

/-- The state with that answer used up. -/
def State.dropInit (s : State) : State := { s with env := s.env.dropInit }

/-- The answer the next `T_TRANSFER` gets. -/
def State.nextTransfer (s : State) : TransferAnswer := s.env.nextTransfer

/-- The state with that answer used up. -/
def State.dropTransfer (s : State) : State := { s with env := s.env.dropTransfer }

/-- `T_INIT()`: the answer and the state after the call (R183). -/
def State.tInit (s : State) : InitAnswer × State := (s.nextInit, s.dropInit.emit (.init s.nextInit))

/-- `T_SELECT(k)`: `cs[k] <- 1` (R184). -/
def State.tSelect (s : State) (k : Nat) : State := { s with cs := s.cs.set (k - 1) true }.emit (.select k)

/-- `T_DESELECT(k)`: `cs[k] <- 0` (R185). -/
def State.tDeselect (s : State) (k : Nat) : State := { s with cs := s.cs.set (k - 1) false }.emit (.deselect k)

/-- What a word on the bus does to the selected chips; a word that is no command word is ignored (D31, U9;
assumption 21). -/
def State.busReceives (s : State) (w : Word) : State :=
  match commandFields s.cfg (rev16 w) with
  | .ok mv => s.chipsTake mv.1 mv.2
  | .error _ => s

/-- `T_TRANSFER(w)`: the answer and the state after the call (R186). Answered ok, the selected chips have taken the
word; answered fail, they have not (R58, R242, D31). -/
def State.tTransfer (s : State) (w : Word) : TransferAnswer × State :=
  let t := s.dropTransfer.emit (.transfer w s.nextTransfer)
  (s.nextTransfer, match s.nextTransfer with
    | .ok _ => t.busReceives w
    | .fail => t)

/-! ### The transaction (43_chain.md R161) -/

/-- The decoded reply of a successful transfer is gathered (R164). -/
def State.addReply (s : State) (k : Nat) (r : Word) : State :=
  { s with replies := s.replies ++ [(k, frameDecode r)] }

/-- `TRANSACT(k, m, v)` inside an operation: select, transfer, deselect, and on ok the cache write and the reply.
True when the transfer returned ok. -/
def State.transact (s : State) (k : Nat) (m : Mode) (v : Mask) : Bool × State :=
  let p := (s.tSelect k).tTransfer (wireWord (s.cfg.code m) v)
  match p.1 with
  | .ok r => (true, ((p.2.tDeselect k).cacheSet k m v).addReply k r)
  | .fail => (false, p.2.tDeselect k)

/-- One transaction as a whole operation: its record has `fail_index = k` on failure (R161). -/
def State.transactAlone (s : State) (k : Nat) (m : Mode) (v : Mask) : State :=
  let p := s.start.transact k m v
  if p.1 then p.2.finish .ok none else p.2.finish .transportFailure (some k)

/-! ### Shapes of operations -/

/-- A host operation is not accepted while another is in flight: it is held off and nothing changes (R28, U13;
assumption 13). -/
def State.whenIdle (s : State) (body : Host.Outcome State Fault Refusal) : Host.Outcome State Fault Refusal :=
  if s.busy then .next s else body

/-- The last part of every single-chip set operation: nothing to send if the cache holds the mask (R145), else one
transaction (R140 (d), (e); R146). A hung Transport never returns (R196; assumption 12). -/
def State.sendMask (s : State) (k : Nat) (m : Mode) (v : Mask) : Host.Outcome State Fault Refusal :=
  if s.maskAt k m = v then .next (s.give { status := .ok })
  else if s.env.hung then .fault .transportHung
  else .next (s.transactAlone k m v)

/-- A successful bus initialisation: every mask 0x00, every line de-asserted, `initialized = 1` (R190). -/
def State.initialise (s : State) : State :=
  { s with
    cache := List.replicate s.cfg.nChips .zero
    cs := List.replicate s.cfg.nChips false
    initialized := true }

/-! ### Reset -/

/-- Reset: the state of R36 whatever the block was doing; an operation in flight is abandoned with no result. The
chips, what is presented next and the coming answers are outside the block and stay (R230, R231); a hung call is
over (U6). -/
def State.assertReset (s : State) : State :=
  { State.init s.cfg with level := s.level, env := { s.env with hung := false } }

end Sys2Proof.Machine
end

