-- ==== Sys2Proof/Machine/Cache.lean ====
section
/-! DEFINITION. ChannelStateCache: CACHE_GET, CACHE_SET (41_cache.md). -/

namespace Sys2Proof.Machine

/-- The mask that CACHE_GET returns for a mode code (R130). -/
def State.maskOfCode (s : State) (chip : Nat) (mode : ModeCode) : Option Mask :=
  (s.cfg.modeOf mode).map (s.maskAt chip)

/-- CACHE_GET (R130): the cached mask, with no bus activity and no state change. -/
def execCacheGet (chip : Nat) (mode : ModeCode) (s : State) : Host.Outcome State Fault Refusal :=
  s.whenIdle <|
    match s.validate none (some chip) (some mode) with
    | some e => .next (s.raise e)
    | none => .next (s.give { status := .ok, mask := s.maskOfCode chip mode })

/-- CACHE_SET (R131), the internal micro-operation: the mask is overwritten and nothing else. -/
def execCacheSet (chip : Nat) (m : Mode) (mask : Mask) (s : State) : Host.Outcome State Fault Refusal :=
  if s.cfg.hasChip chip then .next (s.cacheSet chip m mask) else .fault .noSuchChip

end Sys2Proof.Machine
end

