-- ==== Sys2Proof/Machine/Controller.lean ====
section
/-! DEFINITION. ChannelController: the three single-channel operations and the batch operation (42_controller.md). -/

namespace Sys2Proof.Machine

/-- `SET_CHANNEL(m, chip, channel, enabled)`, the common body (R140). -/
def State.setChannel (s : State) (m : Mode) (chip channel : Nat) (enabled : Bool) :
    Host.Outcome State Fault Refusal :=
  s.whenIdle <|
    match s.validate (some channel) (some chip) none with
    | some e => .next (s.raise e)
    | none => s.sendMask chip m (candidate (s.maskAt chip m) channel enabled)

/-- The body of the batch operation: the whole mask in at most one transaction (R146, R147). -/
def State.setWhole (s : State) (chip : Nat) (mode : ModeCode) (mask : Mask) : Host.Outcome State Fault Refusal :=
  s.whenIdle <|
    match s.validate none (some chip) (some mode) with
    | some e => .next (s.raise e)
    | none =>
      match s.cfg.modeOf mode with
      | some m => s.sendMask chip m mask
      | none => .next (s.raise .invalidMode)

/-- SET_PROTECTION (R141). -/
def execSetProtection (chip channel : Nat) (enabled : Bool) (s : State) : Host.Outcome State Fault Refusal :=
  s.setChannel .protect chip channel enabled

/-- SET_DIAGNOSTICS (R142). -/
def execSetDiagnostics (chip channel : Nat) (enabled : Bool) (s : State) : Host.Outcome State Fault Refusal :=
  s.setChannel .diag chip channel enabled

/-- SET_OUTPUT (R143). -/
def execSetOutput (chip channel : Nat) (enabled : Bool) (s : State) : Host.Outcome State Fault Refusal :=
  s.setChannel .output chip channel enabled

/-- SET_MULTIPLE_PINS (R146). -/
def execSetMultiplePins (chip : Nat) (mode : ModeCode) (mask : Mask) (s : State) :
    Host.Outcome State Fault Refusal :=
  s.setWhole chip mode mask

end Sys2Proof.Machine
end

