-- ==== Sys2Proof/Machine/Chain.lean ====
section
/-! DEFINITION. ChipChain, the chip-select sequencer: TRANSACT, TARGETED, BROADCAST (43_chain.md). -/

namespace Sys2Proof.Machine

/-- TRANSACT (R161), the internal micro-sequence by itself, with its record. -/
def execTransact (k : Nat) (m : Mode) (v : Mask) (s : State) : Host.Outcome State Fault Refusal :=
  if s.cfg.hasChip k then
    if s.env.hung then .fault .transportHung else .next (s.transactAlone k m v)
  else .fault .noSuchChip

/-- TARGETED (R165): "same as above but only for one addressed chip". -/
def execTargeted (chip : Nat) (mode : ModeCode) (mask : Mask) (s : State) : Host.Outcome State Fault Refusal :=
  s.setWhole chip mode mask

/-- The chips `k`, `k + 1`, …, `n` of them, in ascending order: a chip that holds the mask is passed over, and the
first failed transfer ends the loop with its chip's index (R166 to R169). -/
def broadcastLoop (m : Mode) (v : Mask) : Nat → Nat → State → Option Nat × State
  | 0, _, s => (none, s)
  | n + 1, k, s =>
    if s.maskAt k m = v then broadcastLoop m v n (k + 1) s
    else
      let p := s.transact k m v
      if p.1 then broadcastLoop m v n (k + 1) p.2 else (some k, p.2)

/-- The broadcast once its checks are passed (R166, R171). -/
def State.broadcastAll (s : State) (m : Mode) (v : Mask) : State :=
  let p := broadcastLoop m v s.cfg.nChips 1 s.start
  match p.1 with
  | none => p.2.finish .ok none
  | some k => p.2.finish .transportFailure (some k)

/-- Some chip's cached mask differs from the one broadcast, so that a transfer is made (R178). -/
def State.broadcastTransacts (s : State) (m : Mode) (v : Mask) : Bool :=
  (List.range s.cfg.nChips).any fun i => decide (s.maskAt (i + 1) m ≠ v)

/-- BROADCAST (R166). -/
def execBroadcast (mode : ModeCode) (mask : Mask) (s : State) : Host.Outcome State Fault Refusal :=
  s.whenIdle <|
    match s.validate none none (some mode) with
    | some e => .next (s.raise e)
    | none =>
      match s.cfg.modeOf mode with
      | some m =>
        if s.env.hung && s.broadcastTransacts m mask then .fault .transportHung else .next (s.broadcastAll m mask)
      | none => .next (s.raise .invalidMode)

end Sys2Proof.Machine
end

