-- ==== Sys2Proof/Machine/Codec.lean ====
section
/-! DEFINITION. FrameCodec: ENCODE, DECODE, REV16 (40_codec.md). They read and write no state, so they are available
at all times, before INIT and while an operation is in flight (R120); only their result is given back. -/

namespace Sys2Proof.Machine

/-- ENCODE (R113): the wire word, or `InvalidMode` for a code that is none of the three (R202). -/
def execEncode (mode : ModeCode) (mask : Mask) (s : State) : Host.Outcome State Fault Refusal :=
  match frameEncode s.cfg mode mask with
  | some w => .next (s.give { status := .ok, word := some w })
  | none => .next (s.raise .invalidMode)

/-- DECODE (R116): the fault mask, for every word. -/
def execDecode (word : Word) (s : State) : Host.Outcome State Fault Refusal :=
  .next (s.give { status := .ok, mask := some (frameDecode word) })

/-- REV16 (R110): the reversed word. R110 calls it a helper and R14 and R206 give it no record: that it is returned as
`word` with status OK, as ENCODE's is, is the model's (DESIGN CHOICE, assumption 34). -/
def execRev16 (v : Word) (s : State) : Host.Outcome State Fault Refusal :=
  .next (s.give { status := .ok, word := some (rev16 v) })

end Sys2Proof.Machine
end

