-- ==== Sys2Proof/Machine/Transport.lean ====
section
/-! DEFINITION. The Transport calls as micro-operations, the words on the bus, INIT, the reserved selectors and
ENABLE_PWM (44_transport_system.md, 30_encoding.md). -/

namespace Sys2Proof.Machine

/-- The bus initialisation of INIT: one `T_INIT()` and what its answer brings (R190, R192). -/
def State.initBus (s : State) : State :=
  let p := s.start.tInit
  match p.1 with
  | .ok => p.2.initialise.finish .ok none
  | .fail => p.2.finish .transportFailure none

/-- INIT (R190); when already initialised it does nothing and returns OK (R191). -/
def execInit (s : State) : Host.Outcome State Fault Refusal :=
  s.whenIdle <|
    if s.initialized then .next (s.give { status := .ok })
    else if s.env.hung then .fault .transportHung
    else .next s.initBus

/-- RESERVED_OP (R97): the request is not accepted, there is no status, nothing changes (U7; assumption 6). -/
def execReservedOp (_op : OpSel) (s : State) : Host.Outcome State Fault Refusal := .next s

/-- WR_PROTECT (R95): the selected chip's protection register takes the mask (D31; assumption 8). -/
def execWrProtect (mask : Mask) (s : State) : Host.Outcome State Fault Refusal := .next (s.chipsTake .protect mask)

/-- WR_DIAG (R95): the selected chip's diagnostic register takes the mask (D31; assumption 8). -/
def execWrDiag (mask : Mask) (s : State) : Host.Outcome State Fault Refusal := .next (s.chipsTake .diag mask)

/-- WR_OUTPUT (R95): the selected chip's output register takes the mask (D31; assumption 8). -/
def execWrOutput (mask : Mask) (s : State) : Host.Outcome State Fault Refusal := .next (s.chipsTake .output mask)

/-- REPLY (R87): the reply of the selected chip is decoded and returned as data; it is not stored and never changes
the status (R164, R216; assumption 9). -/
def execReply (word : Word) (s : State) : Host.Outcome State Fault Refusal :=
  .next (s.give { status := .ok, replies := s.selectedReplies word })

/-- T_INIT (R183): the call and its event; what INIT makes of the answer is not part of it. -/
def execTInit (s : State) : Host.Outcome State Fault Refusal :=
  if s.env.hung then .fault .transportHung else .next s.tInit.2

/-- T_SELECT (R184); while the Transport is hung the call never returns (R196; assumption 12). -/
def execTSelect (k : Nat) (s : State) : Host.Outcome State Fault Refusal :=
  if s.cfg.hasChip k then
    if s.env.hung then .fault .transportHung else .next (s.tSelect k)
  else .fault .noSuchChip

/-- T_DESELECT (R185); while the Transport is hung the call never returns (R196; assumption 12). -/
def execTDeselect (k : Nat) (s : State) : Host.Outcome State Fault Refusal :=
  if s.cfg.hasChip k then
    if s.env.hung then .fault .transportHung else .next (s.tDeselect k)
  else .fault .noSuchChip

/-- T_TRANSFER (R186): the call writes no state of the block; the event records the word and the answer. -/
def execTTransfer (w : Word) (s : State) : Host.Outcome State Fault Refusal :=
  if s.env.hung then .fault .transportHung else .next (s.tTransfer w).2

/-- ENABLE_PWM (R195): it reads and writes no state of this block and emits no event (assumption 10). -/
def execEnablePwm (_channel : Nat) (s : State) : Host.Outcome State Fault Refusal := .next s

end Sys2Proof.Machine
end

