-- ==== Sys2Proof/Machine/Dispatch.lean ====
section
/-! DEFINITION. The meaning of every instruction, one arm per constructor. -/

namespace Sys2Proof.Machine

def exec (i : Instr) (s : State) : Host.Outcome State Fault Refusal :=
  match i with
  | .init => Sys2Proof.Machine.execInit s
  | .setProtection chip channel enabled => Sys2Proof.Machine.execSetProtection chip channel enabled s
  | .setDiagnostics chip channel enabled => Sys2Proof.Machine.execSetDiagnostics chip channel enabled s
  | .setOutput chip channel enabled => Sys2Proof.Machine.execSetOutput chip channel enabled s
  | .setMultiplePins chip mode mask => Sys2Proof.Machine.execSetMultiplePins chip mode mask s
  | .targeted chip mode mask => Sys2Proof.Machine.execTargeted chip mode mask s
  | .broadcast mode mask => Sys2Proof.Machine.execBroadcast mode mask s
  | .cacheGet chip mode => Sys2Proof.Machine.execCacheGet chip mode s
  | .reservedOp op => Sys2Proof.Machine.execReservedOp op s
  | .wrProtect mask => Sys2Proof.Machine.execWrProtect mask s
  | .wrDiag mask => Sys2Proof.Machine.execWrDiag mask s
  | .wrOutput mask => Sys2Proof.Machine.execWrOutput mask s
  | .reply word => Sys2Proof.Machine.execReply word s
  | .encode mode mask => Sys2Proof.Machine.execEncode mode mask s
  | .decode word => Sys2Proof.Machine.execDecode word s
  | .rev16 v => Sys2Proof.Machine.execRev16 v s
  | .cacheSet chip m mask => Sys2Proof.Machine.execCacheSet chip m mask s
  | .transact k m v => Sys2Proof.Machine.execTransact k m v s
  | .tInit => Sys2Proof.Machine.execTInit s
  | .tSelect k => Sys2Proof.Machine.execTSelect k s
  | .tDeselect k => Sys2Proof.Machine.execTDeselect k s
  | .tTransfer w => Sys2Proof.Machine.execTTransfer w s
  | .enablePwm channel => Sys2Proof.Machine.execEnablePwm channel s

end Sys2Proof.Machine
end

