-- ==== Sys2Proof/Machine/EventLevel.lean ====
section
/-! DEFINITION. The sequencer at the event level (43_chain.md R175, R176): accepting a request, and one phase. Each
phase makes at most one Transport call, by the same shared operations that `exec` uses. -/

namespace Sys2Proof.Machine

/-- The sequencer goes to a phase. -/
def State.goto (s : State) (p : Phase) : State := { s with seq := { s.seq with phase := p } }

/-- `DONE(status, fail_index)` is the next phase. -/
def State.toDone (s : State) (status : Status) (failIndex : Option Nat) : State :=
  { s with seq := { s.seq with phase := .done, pendStatus := status, pendFail := failIndex } }

/-- An operation is accepted: `busy <- 1`, and it starts with the given latches. -/
def State.begin (s : State) (q : Sequencer) : State := { s.start with busy := true, seq := q }

/-- `IDLE`, a single-channel operation (R176): the checks, then the latches, then `CHECK`. -/
def State.acceptChannel (s : State) (m : Mode) (chip channel : Nat) (enabled : Bool) : State :=
  match s.validate (some channel) (some chip) none with
  | some e => s.raise e
  | none =>
    s.begin { s.seq with phase := .check, cur := chip, pendMode := m, pendAll := false,
                         pendChan := some (channel, enabled) }

/-- `IDLE`, a single-chip operation with a whole mask (R176). -/
def State.acceptWhole (s : State) (chip : Nat) (mode : ModeCode) (mask : Mask) : State :=
  match s.validate none (some chip) (some mode) with
  | some e => s.raise e
  | none =>
    match s.cfg.modeOf mode with
    | some m =>
      s.begin { s.seq with phase := .check, cur := chip, pendMode := m, pendMask := mask, pendAll := false,
                           pendChan := none }
    | none => s.raise .invalidMode

/-- `IDLE`, BROADCAST (R176): the cursor starts at 1. -/
def State.acceptBroadcast (s : State) (mode : ModeCode) (mask : Mask) : State :=
  match s.validate none none (some mode) with
  | some e => s.raise e
  | none =>
    match s.cfg.modeOf mode with
    | some m =>
      s.begin { s.seq with phase := .check, cur := 1, pendMode := m, pendMask := mask, pendAll := true,
                           pendChan := none }
    | none => s.raise .invalidMode

/-- `IDLE`, INIT (R176): OK at once when already initialised, else `BUSINIT`. -/
def State.acceptInit (s : State) : State :=
  if s.initialized then s.give { status := .ok } else s.begin { s.seq with phase := .busInit }

/-- Phase `IDLE` with a request (R176). CACHE_GET and what is no operation end where they begin, as at the operation
level. -/
def accept (i : Instr) (s : State) : Host.Outcome State Fault Refusal :=
  match i with
  | .init => .next s.acceptInit
  | .setProtection chip channel enabled => .next (s.acceptChannel .protect chip channel enabled)
  | .setDiagnostics chip channel enabled => .next (s.acceptChannel .diag chip channel enabled)
  | .setOutput chip channel enabled => .next (s.acceptChannel .output chip channel enabled)
  | .setMultiplePins chip mode mask => .next (s.acceptWhole chip mode mask)
  | .targeted chip mode mask => .next (s.acceptWhole chip mode mask)
  | .broadcast mode mask => .next (s.acceptBroadcast mode mask)
  | .cacheGet _ _ => exec i s
  | .reservedOp _ => exec i s
  | .wrProtect _ => exec i s
  | .wrDiag _ => exec i s
  | .wrOutput _ => exec i s
  | .reply _ => exec i s
  | .encode _ _ => exec i s
  | .decode _ => exec i s
  | .rev16 _ => exec i s
  | .cacheSet _ _ _ => exec i s
  | .transact _ _ _ => exec i s
  | .tInit => exec i s
  | .tSelect _ => exec i s
  | .tDeselect _ => exec i s
  | .tTransfer _ => exec i s
  | .enablePwm _ => exec i s

/-- `last`: `N_CHIPS` for BROADCAST, else the chip operand, which `cur` holds throughout (R30, R176). -/
def State.lastChip (s : State) : Nat := if s.seq.pendAll then s.cfg.nChips else s.seq.cur

/-- `NEXT`, part of `CHECK` and `UPDATE` (R176): the next chip, or `DONE(OK)`. -/
def State.nextChip (s : State) : State :=
  if s.seq.cur < s.lastChip then { s with seq := { s.seq with cur := s.seq.cur + 1, phase := .check } }
  else s.toDone .ok none

/-- Phase `BUSINIT`: `T_INIT()`; ok zeroes all masks and sets `initialized` (R176, R190). -/
def State.phaseBusInit (s : State) : State :=
  let p := s.tInit
  match p.1 with
  | .ok => p.2.initialise.toDone .ok none
  | .fail => p.2.toDone .transportFailure none

/-- The mask that `CHECK` compares and latches: the candidate for a single-channel operation (R176). -/
def State.checkMask (s : State) : Mask :=
  match s.seq.pendChan with
  | some (channel, enabled) => candidate (s.maskAt s.seq.cur s.seq.pendMode) channel enabled
  | none => s.seq.pendMask

/-- Phase `CHECK`: compare the cached mask with the one to send (R176). -/
def State.phaseCheck (s : State) : State :=
  let t := { s with seq := { s.seq with pendMask := s.checkMask } }
  if s.maskAt s.seq.cur s.seq.pendMode = s.checkMask then t.nextChip
  else { t with seq := { t.seq with phase := .select, pendWord := wireWord (s.cfg.code s.seq.pendMode) s.checkMask } }

/-- Phase `SELECT`: `T_SELECT(cur)` (R176). -/
def State.phaseSelect (s : State) : State := (s.tSelect s.seq.cur).goto .transfer

/-- Phase `TRANSFER`: `pend_ans <- T_TRANSFER(pend_word)` (R176). -/
def State.phaseTransfer (s : State) : State :=
  let p := s.tTransfer s.seq.pendWord
  { p.2 with seq := { p.2.seq with pendAns := p.1, phase := .deselect } }

/-- Phase `DESELECT`: `T_DESELECT(cur)`; after a failed transfer the operation is done (R163, R176). -/
def State.phaseDeselect (s : State) : State :=
  let t := s.tDeselect s.seq.cur
  match s.seq.pendAns with
  | .ok _ => t.goto .update
  | .fail => t.toDone .transportFailure (some s.seq.cur)

/-- Phase `UPDATE`: the cache write and the reply, then `NEXT` (R176). It is reached only with an ok answer. -/
def State.phaseUpdate (s : State) : State :=
  match s.seq.pendAns with
  | .ok r => ((s.cacheSet s.seq.cur s.seq.pendMode s.seq.pendMask).addReply s.seq.cur r).nextChip
  | .fail => s.toDone .transportFailure (some s.seq.cur)

/-- Phase `DONE`: the record is returned and `busy <- 0` (R176). `cur` and the latches, unspecified between operations
(R30, U10), keep what the operation left in them (DESIGN CHOICE, assumption 35). -/
def State.phaseDone (s : State) : State :=
  { (s.finish s.seq.pendStatus s.seq.pendFail).goto .idle with busy := false }

/-- One phase of the operation in flight. Each phase that makes a Transport call, of any of the four kinds, lasts until
the call returns (R252); a call that never returns leaves the block where it is, busy for ever (R196, R248;
assumption 12). -/
def advance (s : State) : State :=
  match s.seq.phase with
  | .idle => s
  | .busInit => if s.env.hung then s else s.phaseBusInit
  | .check => s.phaseCheck
  | .select => if s.env.hung then s else s.phaseSelect
  | .transfer => if s.env.hung then s else s.phaseTransfer
  | .deselect => if s.env.hung then s else s.phaseDeselect
  | .update => s.phaseUpdate
  | .done => s.phaseDone

end Sys2Proof.Machine
end

