-- ==== Sys2Proof/Machine/Fetch.lean ====
section
/-! DEFINITION. What the machine does next: the block fetches nothing (70_reset_and_hazards.md R231); it serves what
stands on its ports, and while an operation is in flight it goes on with it (assumption 4, assumption 14). -/

namespace Sys2Proof.Machine

/-- The first input is taken, and the record of the step before is gone (R32; assumption 3). -/
def State.take (s : State) (rest : List Input) : State :=
  { s with result := none, env := { s.env with inputs := rest } }

/-- No input is taken. -/
def State.clearResult (s : State) : State := { s with result := none }

/-- An event of the environment. -/
def State.disturb (s : State) : EnvEvent → State
  | .reset => s.assertReset
  | .transportHangs => { s with env := { s.env with hung := true } }
  | .chipChanges k regs =>
    if s.cfg.hasChip k then { s with env := { s.env with periph := s.env.periph.set (k - 1) regs } } else s

/-- An operation begins: one atomic step, or the first phase of the walk (00_scope.md R9). -/
def State.perform (s : State) (i : Instr) : Host.Outcome State Fault Refusal :=
  match s.level with
  | .operation => exec i s
  | .event => accept i s

/-- What stands on a port that is served at once: the instruction it decodes to. A word on the bus that is no command
word is ignored by the chips (D31; assumption 21). -/
def State.serve (s : State) (p : Port) : Host.Outcome State Fault Refusal :=
  match decodeInput s.cfg p with
  | .ok i => exec i s
  | .error _ => .next s

/-- One step. A request waits while the block is busy (R28); what stands first on another port, and the reset input
when it stands first, is served at any time (R120, R230); with nothing to serve an idle block waits (R176). The inputs
are one list in the order of time: what stands behind a request that is held off comes after its acceptance, a reset
too (DESIGN CHOICE, assumption 22). -/
def runNext (s : State) : Host.Outcome State Fault Refusal :=
  match s.env.inputs with
  | [] => if s.busy then .next (advance s.clearResult) else .next s.clearResult
  | .env e :: rest => .next ((s.take rest).disturb e)
  | .port (.request r) :: rest =>
    if s.busy then .next (advance s.clearResult) else (s.take rest).perform (decodeRequest r)
  | .port p :: rest => (s.take rest).serve p

/-- Port `p` stands first on the inputs. A request is accepted and run whole by the very next step only if the block
is idle and works at the operation level. -/
def State.present (s : State) (p : Port) : State :=
  match p with
  | .request _ =>
    { s with busy := false, level := .operation, seq := { s.seq with phase := .idle },
             env := { s.env with inputs := .port p :: s.env.inputs } }
  | _ => { s with env := { s.env with inputs := .port p :: s.env.inputs } }

end Sys2Proof.Machine
end

