-- ==== Sys2Proof/Machine/Step.lean ====
section
/-! DEFINITION. One step of the machine, and how an instruction is placed so that the next step runs it. -/

namespace Sys2Proof.Machine

/-- One step (00_scope.md R9): see `runNext`. -/
def step (s : State) : Host.Outcome State Fault Refusal := runNext s

/-- The instruction whose opcode-table bits are `w`, standing first on the ports (assumption 4). -/
def State.withFetchWord (s : State) (nbits w : Nat) : State := s.present (tablePort s.cfg nbits w)

end Sys2Proof.Machine
end

