-- ==== Sys2Proof/Safety.lean ====
section
/-! DEFINITION. The notions in which claims are made: the invariant of the machine, agreement of the cache with the
chips and with the words sent, the shape of a trace, and the requests that reach the bus. -/

namespace Sys2Proof.Machine

/-! ### Instructions by kind -/

/-- The single-channel operation of a mode (R141 to R143). -/
def channelOp (m : Mode) (chip channel : Nat) (enabled : Bool) : Instr :=
  match m with
  | .protect => .setProtection chip channel enabled
  | .diag => .setDiagnostics chip channel enabled
  | .output => .setOutput chip channel enabled

/-- The host operations selected by `op` 0x0 to 0x7 (R94). -/
def isHostOperation : Instr → Bool
  | .init => true
  | .setProtection _ _ _ => true
  | .setDiagnostics _ _ _ => true
  | .setOutput _ _ _ => true
  | .setMultiplePins _ _ _ => true
  | .targeted _ _ _ => true
  | .broadcast _ _ => true
  | .cacheGet _ _ => true
  | .reservedOp _ => false
  | .wrProtect _ => false
  | .wrDiag _ => false
  | .wrOutput _ => false
  | .reply _ => false
  | .encode _ _ => false
  | .decode _ => false
  | .rev16 _ => false
  | .cacheSet _ _ _ => false
  | .transact _ _ _ => false
  | .tInit => false
  | .tSelect _ => false
  | .tDeselect _ => false
  | .tTransfer _ => false
  | .enablePwm _ => false

/-- The instructions one after another, up to the first that stops. -/
def runOps : List Instr → State → Host.Outcome State Fault Refusal
  | [], s => .next s
  | i :: is, s =>
    match exec i s with
    | .next t => runOps is t
    | .fault f => .fault f
    | .refused r => .refused r

/-- `i` is a single-chip set operation that passes every check in `s` and asks chip `chip` for mask `v` in mode `m`:
one of the three single-channel operations with its candidate mask (R140), SET_MULTIPLE_PINS or TARGETED (R146). -/
def AsksFor (s : State) (i : Instr) (chip : Nat) (m : Mode) (v : Mask) : Prop :=
  s.initialized = true ∧ s.cfg.hasChip chip = true ∧
    ((∃ channel enabled, channelValid channel = true ∧ i = channelOp m chip channel enabled ∧
        v = candidate (s.maskAt chip m) channel enabled) ∨
      (∃ mode, s.cfg.modeOf mode = some m ∧ (i = .setMultiplePins chip mode v ∨ i = .targeted chip mode v)))

/-! ### Traces -/

/-- The three events of one transaction (R160, R161). -/
def transactionEvents (k : Nat) (w : Word) (a : TransferAnswer) : List Event :=
  [.select k, .transfer w a, .deselect k]

/-- The chips of the chain that do not hold `v` in mode `m`, in ascending order (R168, R178). -/
def chipsToServe (s : State) (m : Mode) (v : Mask) : List Nat :=
  ((List.range s.cfg.nChips).map (· + 1)).filter fun k => decide (s.maskAt k m ≠ v)

/-- Mode `m` of every chip of the list `ks` becomes `v`. -/
def takeAll (m : Mode) (v : Mask) (l : List ChipState) (ks : List Nat) : List ChipState :=
  ks.foldl (fun l k => setEntry l k m v) l

/-- The events of transactions with the chips `ks` that were all answered ok, with the replies `rs`. -/
def okEvents (w : Word) (ks : List Nat) (rs : List Word) : List Event :=
  (List.zipWith (fun k r => transactionEvents k w (.ok r)) ks rs).flatten

/-- The pairs that those transactions return (R171). -/
def okReplies (ks : List Nat) (rs : List Word) : List (Nat × Mask) :=
  List.zipWith (fun k r => (k, frameDecode r)) ks rs

/-- `s` after one transaction answered `ok(r)`: the answer is used up, the cache and the chip hold the mask, the
record is returned, and nothing else has changed (R140, R154, R161; the chip: D31). -/
def State.sent (s : State) (k : Nat) (m : Mode) (v : Mask) (r : Word) : State :=
  { s.dropTransfer with
    cache := setEntry s.cache k m v
    env := { s.dropTransfer.env with periph := setEntry s.env.periph k m v }
    result := some { status := .ok, replies := [(k, frameDecode r)]
                     trace := transactionEvents k (wireWord (s.cfg.code m) v) (.ok r) } }

/-- `s` after one transaction answered `fail`: the answer is used up, the record is returned, and nothing else has
changed (R140, R154, R161, R211). -/
def State.notSent (s : State) (k : Nat) (m : Mode) (v : Mask) : State :=
  { s.dropTransfer with
    result := some { status := .transportFailure, failIndex := some k
                     trace := transactionEvents k (wireWord (s.cfg.code m) v) .fail } }

/-- A concatenation of transactions that all send `w`, with strictly ascending chips above `lo` and within the chain,
of which only the last can have failed (R174 (a) to (g)). -/
def transactionsAbove (n : Nat) (w : Word) : Nat → List Event → Prop
  | _, [] => True
  | lo, .select k :: .transfer w' a :: .deselect k' :: rest =>
    lo < k ∧ k ≤ n ∧ k' = k ∧ w' = w ∧ (a = .fail → rest = []) ∧ transactionsAbove n w k rest
  | _, _ => False

/-- The number of transfers in a trace (R178). -/
def transferCount : List Event → Nat
  | [] => 0
  | .transfer _ _ :: es => transferCount es + 1
  | .init _ :: es => transferCount es
  | .select _ :: es => transferCount es
  | .deselect _ :: es => transferCount es

/-! ### The invariant -/

/-- The phases in which one chip's share of an operation is handled. -/
def Phase.onChip : Phase → Bool
  | .idle => false
  | .busInit => false
  | .check => true
  | .select => true
  | .transfer => true
  | .deselect => true
  | .update => true
  | .done => false

/-- The phases of a transaction: `Pending` in the sense of R33. -/
def Phase.pending : Phase → Bool
  | .idle => false
  | .busInit => false
  | .check => false
  | .select => true
  | .transfer => true
  | .deselect => true
  | .update => true
  | .done => false

/-- The phases before which a line has been asserted and not yet de-asserted (R176). -/
def Phase.lineUp : Phase → Bool
  | .idle => false
  | .busInit => false
  | .check => false
  | .select => false
  | .transfer => true
  | .deselect => true
  | .update => false
  | .done => false

/-- The select lines as R27 wants them: only that of `cur`, and only around the transfer. -/
def State.properLines (s : State) : List Bool :=
  if s.seq.phase.lineUp then (List.replicate s.cfg.nChips false).set (s.seq.cur - 1) true
  else List.replicate s.cfg.nChips false

/-- What holds of the machine in every state it reaches. -/
structure State.Inv (s : State) : Prop where
  /-- The parameters are legal (R10, R85). -/
  legal : s.cfg.wf = true
  /-- One entry of the cache for each chip (R22). -/
  cacheLength : s.cache.length = s.cfg.nChips
  /-- One entry of the chips' registers for each chip (D31). -/
  periphLength : s.env.periph.length = s.cfg.nChips
  /-- The select lines (R27). -/
  lines : s.cs = s.properLines
  /-- `busy` is 1 from acceptance to result (R28, R29). -/
  busyPhase : s.busy = decide (s.seq.phase ≠ .idle)
  /-- Nothing is gathered between operations (R32). -/
  idleEmpty : s.seq.phase = .idle → s.replies = [] ∧ s.trace = []
  /-- Before initialisation every mask is 0x00 (R36). -/
  zeroBefore : s.initialized = false → s.cache = List.replicate s.cfg.nChips .zero
  /-- `BUSINIT` is entered only when not initialised (R176). -/
  busInitBefore : s.seq.phase = .busInit → s.initialized = false
  /-- A chip is handled only after initialisation, and it is in the chain (R30, R205). -/
  chipValid : s.seq.phase.onChip = true → s.initialized = true ∧ s.cfg.hasChip s.seq.cur = true
  /-- A latched channel was checked, and a broadcast latches none (R140, R176). -/
  channelLatched : ∀ channel enabled, s.seq.phase.onChip = true → s.seq.pendChan = some (channel, enabled) →
    channelValid channel = true ∧ s.seq.pendAll = false
  /-- The latched word is recomputable (R31), and it is sent only where it changes the mask (R60, R145). -/
  wordLatched : s.seq.phase.pending = true →
    s.seq.pendWord = wireWord (s.cfg.code s.seq.pendMode) s.seq.pendMask ∧
      s.maskAt s.seq.cur s.seq.pendMode ≠ s.seq.pendMask
  /-- `UPDATE` is reached only with an ok answer (R176). -/
  answeredOk : s.seq.phase = .update → s.seq.pendAns ≠ .fail

/-! ### The cache and the chips (D31) -/

/-- The last answer in flight was ok, and the cache write has not been made yet. -/
def State.aheadOfCache (s : State) : Bool :=
  match s.seq.phase, s.seq.pendAns with
  | .deselect, .ok _ => true
  | .update, .ok _ => true
  | _, _ => false

/-- The cache, with the mask of a transfer that has just returned ok already in it (R33). -/
def State.sentView (s : State) : List ChipState :=
  if s.aheadOfCache then setEntry s.cache s.seq.cur s.seq.pendMode s.seq.pendMask else s.cache

/-- The chips hold what the cache says; between operations the cache itself (R33, D31). -/
def State.Coherent (s : State) : Prop := s.env.periph = s.sentView

/-- Nothing that hazards H1, H3 and H5 speak of comes next: no reset of the block alone, no chip that changes on its
own, no word of another master (R241, R243, R245). -/
def State.Undisturbed (s : State) : Prop :=
  ∀ i rest, s.env.inputs = i :: rest →
    i ≠ .env .reset ∧ (∀ k regs, i ≠ .env (.chipChanges k regs)) ∧ (∀ w, i ≠ .port (.busWord w))

/-! ### The cache and the words sent (R23) -/

/-- What one event does to the pair of the line asserted and the mask last sent to chip `k` in mode `m`: an ok
transfer counts if it was made with line `k` asserted and carried the code of `m`; an ok `T_INIT` forgets (R23). -/
def sentStep (c : Config) (k : Nat) (m : Mode) (p : Option Nat × Mask) : Event → Option Nat × Mask
  | .init .ok => (p.1, 0#8)
  | .init .fail => p
  | .select j => (some j, p.2)
  | .deselect _ => (none, p.2)
  | .transfer w (.ok _) =>
    if p.1 = some k ∧ (rev16 w).extractLsb' 8 4 = c.code m then (p.1, (rev16 w).extractLsb' 0 8) else p
  | .transfer _ .fail => p

/-- The line asserted after a history of all events since reset, and the mask of the last word successfully sent to
chip `k` in mode `m` since the last successful initialisation, 0x00 if there is none (R23). -/
def lastSent (c : Config) (k : Nat) (m : Mode) (h : List Event) : Option Nat × Mask :=
  h.foldl (sentStep c k m) (none, 0#8)

/-- The cache reflects the history: that of the operations completed, `h`, and of the one in flight (R23, R27). -/
def State.Reflects (s : State) (h : List Event) : Prop :=
  ∀ k m, s.cfg.hasChip k = true →
    lastSent s.cfg k m (h ++ s.trace) =
      (if s.seq.phase.lineUp then some s.seq.cur else none, (chipEntry s.sentView k).get m)

/-- The events of the operation whose record a step has returned. -/
def State.lastTrace (s : State) : List Event :=
  match s.result with
  | some r => r.trace
  | none => []

/-- The history after a step from `s` to `t`: reset forgets it (R38), else the step's events are added. -/
def historyAfter (s t : State) (h : List Event) : List Event :=
  match s.env.inputs with
  | .env .reset :: _ => []
  | _ => h ++ t.lastTrace

/-! ### Statuses (R206) -/

/-- The statuses with which an operation can end, by the table of R206. -/
def mayEndWith : Instr → Status → Bool
  | .init, e => e == .ok || e == .transportFailure
  | .setProtection _ _ _, e => !(e == .invalidMode)
  | .setDiagnostics _ _ _, e => !(e == .invalidMode)
  | .setOutput _ _ _, e => !(e == .invalidMode)
  | .setMultiplePins _ _ _, e => !(e == .channelOutOfRange)
  | .targeted _ _ _, e => !(e == .channelOutOfRange)
  | .broadcast _ _, e => !(e == .channelOutOfRange || e == .unknownChip)
  | .cacheGet _ _, e => !(e == .channelOutOfRange || e == .transportFailure)
  | .encode _ _, e => e == .ok || e == .invalidMode
  | .decode _, e => e == .ok
  | .reservedOp _, _ => false
  | .wrProtect _, _ => false
  | .wrDiag _, _ => false
  | .wrOutput _, _ => false
  | .reply _, e => e == .ok
  | .rev16 _, e => e == .ok
  | .cacheSet _ _ _, _ => false
  | .transact _ _ _, e => e == .ok || e == .transportFailure
  | .tInit, _ => false
  | .tSelect _, _ => false
  | .tDeselect _, _ => false
  | .tTransfer _, _ => false
  | .enablePwm _, _ => false

end Sys2Proof.Machine
end

