-- ==== Sys2Proof/Certificates/Slice0/Obligations.lean ====
section
/-! DEFINITION. The statements for the provers. Each names the rule of spec/ it formalises; where a clause rests on a
choice of the model, its docstring names the assumption. -/

open Sys2Proof Sys2Proof.Machine

/-! ### FrameCodec (40_codec.md) -/

/-- R110: `rev16`, `rev8` and `rev4` move bit `i` to the other end, with the rule's four examples; the row REV16
returns `rev16` and changes nothing else. That it returns it as `word` in a record with status OK is the model's choice
(assumption 34). -/
def Obligations.Rev16ReversesEveryBit : Prop :=
  (∀ (v : Word) (i : Nat), i < 16 → (rev16 v).getLsbD i = v.getLsbD (15 - i)) ∧
  (∀ (v : Mask) (i : Nat), i < 8 → (rev8 v).getLsbD i = v.getLsbD (7 - i)) ∧
  (∀ (v : ModeCode) (i : Nat), i < 4 → (rev4 v).getLsbD i = v.getLsbD (3 - i)) ∧
  rev16 0x0001#16 = 0x8000#16 ∧ rev16 0xAC10#16 = 0x0835#16 ∧ rev16 0x1234#16 = 0x2C48#16 ∧
  rev16 0xFFFF#16 = 0xFFFF#16 ∧
  ∀ (v : Word) (s : State), exec (.rev16 v) s = .next (s.give { status := .ok, word := some (rev16 v) })

/-- R111: `rev16` is its own inverse and a bijection, swaps and reverses the two bytes, and commutes with AND, OR,
XOR and NOT. -/
def Obligations.Rev16IsAnInvolution : Prop :=
  (∀ v : Word, rev16 (rev16 v) = v) ∧ Function.Bijective rev16 ∧
  (∀ hi lo : Mask, rev16 (hi ++ lo) = rev8 lo ++ rev8 hi) ∧
  (∀ a b : Word, rev16 (a &&& b) = rev16 a &&& rev16 b ∧ rev16 (a ||| b) = rev16 a ||| rev16 b ∧
    rev16 (a ^^^ b) = rev16 a ^^^ rev16 b ∧ rev16 (~~~a) = ~~~(rev16 a))

/-- R112: `PACK` is the concatenation, and equals the OR and the sum of its fields in their places. -/
def Obligations.PackJoinsDisjointFields : Prop :=
  ∀ (code : ModeCode) (mask : Mask),
    pack code mask = 0b1010#4 ++ code ++ mask ∧
    pack code mask = 0xA000#16 ||| (code.setWidth 16 <<< 8) ||| mask.setWidth 16 ∧
    pack code mask = 0xA000#16 + (code.setWidth 16 <<< 8) + mask.setWidth 16

/-- R113, R114: for a recognised code ENCODE returns `rev16(1010b ++ mode ++ mask)`, which is
`rev8(mask) ++ rev4(mode) ++ 0101b`, bit by bit as R114 says; for every other code it raises `InvalidMode`. It writes
nothing but its result, in every state. -/
def Obligations.EncodeGivesTheWireWord : Prop :=
  ∀ (s : State) (mode : ModeCode) (mask : Mask),
    let w : Word := rev16 (0b1010#4 ++ mode ++ mask)
    ((mode = s.cfg.codeProtect ∨ mode = s.cfg.codeDiag ∨ mode = s.cfg.codeOutput) →
      exec (.encode mode mask) s = .next (s.give { status := .ok, word := some w })) ∧
    (¬(mode = s.cfg.codeProtect ∨ mode = s.cfg.codeDiag ∨ mode = s.cfg.codeOutput) →
      exec (.encode mode mask) s = .next (s.give { status := .invalidMode })) ∧
    w = rev8 mask ++ rev4 mode ++ 0b0101#4 ∧
    (∀ i, i < 8 → w.getLsbD (15 - i) = mask.getLsbD i) ∧ (∀ j, j < 4 → w.getLsbD (7 - j) = mode.getLsbD j) ∧
    w.extractLsb' 0 4 = 0x5#4

/-- R115: ENCODE is injective on its domain and its image has 768 elements. -/
def Obligations.EncodeIsInjective : Prop :=
  ∀ c : Config, c.wf = true →
    (∀ a b m n w, frameEncode c a m = some w → frameEncode c b n = some w → a = b ∧ m = n) ∧
    ∃ image : List Word, image.length = 768 ∧ image.Nodup ∧
      ∀ w, w ∈ image ↔ ∃ mode mask, frameEncode c mode mask = some w

/-- R116, R117: DECODE returns `rev16(word)[7:0]`, which is `rev8(word[15:8])`, for every word and in every state,
with the rule's four examples. -/
def Obligations.DecodeTakesTheLowLogicalByte : Prop :=
  (∀ (w : Word) (s : State),
    exec (.decode w) s = .next (s.give { status := .ok, mask := some ((rev16 w).extractLsb' 0 8) })) ∧
  (∀ w : Word, (rev16 w).extractLsb' 0 8 = rev8 (w.extractLsb' 8 8)) ∧
  (∀ (w : Word) (i : Nat), i < 8 → (frameDecode w).getLsbD i = w.getLsbD (15 - i)) ∧
  frameDecode 0x0835#16 = 0x10#8 ∧ frameDecode 0x00FF#16 = 0x00#8 ∧ frameDecode 0xFF00#16 = 0xFF#8 ∧
  frameDecode 0x8000#16 = 0x01#8

/-- R118: for every mode and every mask, DECODE of ENCODE gives the mask back. -/
def Obligations.CodecRoundTrip : Prop :=
  ∀ (s t : State) (m : Mode) (mask : Mask), ∃ w : Word,
    exec (.encode (s.cfg.code m) mask) s = .next (s.give { status := .ok, word := some w }) ∧
    exec (.decode w) t = .next (t.give { status := .ok, mask := some mask })

/-- R13, R85, R96: under legal parameters `MODE_OF` is the partial inverse of `CODE`, and exactly 13 of the 16 codes
are none of the three (the codes are parameters, D1: assumption 1). -/
def Obligations.ModeOfInvertsCode : Prop :=
  ∀ c : Config, c.wf = true →
    (∀ code m, c.modeOf code = some m ↔ code = c.code m) ∧
    ((List.range 16).filter fun n => (c.modeOf (BitVec.ofNat 4 n)).isNone).length = 13

/-- R54, R55, with the Transport's shift order of decision D5 (assumption 20): the bits of a wire word in time are
channels 1 to 8, code bits 0 to 3, then 0 1 0 1; assembling what was sent gives it back; and the first eight bits
received are the fault bits of channels 1 to 8. -/
def Obligations.LeastSignificantBitTravelsFirst : Prop :=
  (∀ (code : ModeCode) (mask : Mask), serialBits (wireWord code mask) =
    (List.range 8).map mask.getLsbD ++ (List.range 4).map code.getLsbD ++ [false, true, false, true]) ∧
  (∀ w : Word, assembleBits (serialBits w) = w) ∧
  (∀ w : Word, (List.range 8).map (frameDecode w).getLsbD = (serialBits w).take 8)

/-! ### Encodings (30_encoding.md) -/

/-- Decoding what is presented for a well-formed instruction gives the instruction back, for every instruction that
has a form and every operand (R94, R95; the selectors are D19: assumption 23). -/
def Obligations.DecodeUndoesEncode : Prop :=
  ∀ (c : Config) (i : Instr) (p : Port), c.wf = true → i.wf c = true → encode c i = some p → decodeInput c p = .ok i

/-- A wire word decodes exactly when it is one of those of R95, and then to the row whose word it is. That the decoder
refuses any other word, by the name of what is wrong with it, is the model's choice (assumption 21): R96 says only
that no such word is ever put on the bus. -/
def Obligations.WireWordsHaveOneMeaning : Prop :=
  ∀ (c : Config) (w : Word), c.wf = true →
    (∀ i, decodeWire c w = .ok i ↔ ∃ m v, i = writeInstr m v ∧ w = wireWord (c.code m) v) ∧
    (decodeWire c w = .error .wrongAddress ↔ w.extractLsb' 0 4 ≠ 0b0101#4) ∧
    (decodeWire c w = .error .unknownModeCode ↔
      w.extractLsb' 0 4 = 0b0101#4 ∧ c.modeOf (rev4 (w.extractLsb' 4 4)) = none)

/-- R93: an operation reads only the fields that R94 lists for it; the others are ignored (the record is D19 and D20:
assumption 23). -/
def Obligations.UnreadRequestFieldsAreIgnored : Prop :=
  ∀ r r' : Request, r.op = r'.op →
    (r.op ∈ [1#4, 2#4, 3#4, 4#4, 5#4, 7#4] → r.chip = r'.chip) →
    (r.op ∈ [1#4, 2#4, 3#4] → r.channel = r'.channel ∧ r.enabled = r'.enabled) →
    (r.op ∈ [4#4, 5#4, 6#4, 7#4] → r.mode = r'.mode) →
    (r.op ∈ [4#4, 5#4, 6#4] → r.mask = r'.mask) →
    decodeRequest r = decodeRequest r'

/-- Words written out from R94, R95 and R82 decode to what they stand for: the selectors, and bus words under the
codes REF and ALT (which are examples, R85). The numbers of the selectors are D19 (assumption 23). That a table word
of a selector stands for a request with zero fields, and that the table word 0x0010 is a reply that the line carries
reversed, is the model's choice (assumption 4). -/
def Obligations.WrittenOutWordsDecode : Prop :=
  decodeRequest { op := 0b0000#4 } = .init ∧
  decodeRequest { op := 0b0011#4, chip := 1, channel := 5, enabled := true } = .setOutput 1 5 true ∧
  decodeRequest { op := 0b0110#4, mode := 0xC#4, mask := 0xFF#8 } = .broadcast 0xC#4 0xFF#8 ∧
  decodeRequest { op := 0b1111#4 } = .reservedOp 0xF#4 ∧
  decodeWire (Config.ref 1) 0b0000100000110101#16 = .ok (.wrOutput 0x10#8) ∧
  decodeWire (Config.ref 1) 0b1111000011000101#16 = .ok (.wrDiag 0x0F#8) ∧
  decodeWire (Config.ref 1) 0b0010000001010101#16 = .ok (.wrProtect 0x04#8) ∧
  decodeWire (Config.alt 1) 0b0000100011000101#16 = .ok (.wrOutput 0x10#8) ∧
  decodeTableWord 8 4 = some (.setMultiplePins 0 0#4 0#8) ∧ decodeTableWord 8 16 = none ∧
  decodeTableWord 16 0x0010 = some (.reply 0x0800#16)

/-! ### Steps -/

/-- A step runs the decoded instruction: the first input is taken and the record of the step before is gone
(assumptions 3 and 4). A request is run when the block is idle, whole at the operation level, by its first phase at
the event level (R9); what stands on another port is run at any time (R120); with nothing presented an idle block
waits (R176). -/
def Obligations.StepRunsTheDecodedInstruction : Prop :=
  (∀ (s : State) (r : Request) (rest : List Input), s.env.inputs = .port (.request r) :: rest → s.busy = false →
    (s.level = .operation →
      step s = exec (decodeRequest r) { s with result := none, env := { s.env with inputs := rest } }) ∧
    (s.level = .event →
      step s = accept (decodeRequest r) { s with result := none, env := { s.env with inputs := rest } })) ∧
  (∀ (s : State) (p : Port) (rest : List Input) (i : Instr), s.env.inputs = .port p :: rest →
    (∀ r, p ≠ .request r) → decodeInput s.cfg p = .ok i →
      step s = exec i { s with result := none, env := { s.env with inputs := rest } }) ∧
  (∀ s : State, s.env.inputs = [] → s.busy = false → step s = .next { s with result := none })

/-- What `withFetchWord` places is what the next step runs, for every opcode-table word that decodes (assumption 4).
-/
def Obligations.PlacedWordIsRunNext : Prop :=
  ∀ (s : State) (nbits w : Nat) (i : Instr), decodeInput s.cfg (tablePort s.cfg nbits w) = .ok i →
    ∃ t : State, step (s.withFetchWord nbits w) = exec i t ∧ t.result = none ∧ t.env = s.env ∧ t.cfg = s.cfg ∧
      t.cache = s.cache ∧ t.initialized = s.initialized ∧ t.cs = s.cs ∧ t.replies = s.replies ∧ t.trace = s.trace ∧
      (s.busy = false → s.level = .operation → s.seq.phase = .idle → t = { s with result := none })

/-- R28, U13 (D18: assumption 13): while the block is busy no request is accepted: at the operation level's `exec`
nothing happens, and a step leaves every input where it is and goes on with the operation in flight. -/
def Obligations.BusyBlockHoldsRequestsOff : Prop :=
  (∀ (s : State) (i : Instr), s.busy = true → isHostOperation i = true → exec i s = .next s) ∧
  (∀ (s : State) (r : Request) (rest : List Input), s.busy = true → s.env.inputs = .port (.request r) :: rest →
    ∃ t, step s = .next t ∧ t.env.inputs = s.env.inputs ∧
      step { s with env := { s.env with inputs := [] } } = .next { t with env := { t.env with inputs := [] } })

/-! ### ChannelStateCache (41_cache.md) -/

/-- R130: CACHE_GET, its three errors in their order, and the mask it returns; no state is written (the order is D11,
the error of a bad mode D15: assumptions 15 and 27). -/
def Obligations.CacheGetReturnsTheCachedMask : Prop :=
  ∀ (s : State) (chip : Nat) (mode : ModeCode), s.busy = false →
    (s.initialized = false → exec (.cacheGet chip mode) s = .next (s.give { status := .notInitialized })) ∧
    (s.initialized = true → (chip < 1 ∨ s.cfg.nChips < chip) →
      exec (.cacheGet chip mode) s = .next (s.give { status := .unknownChip })) ∧
    (s.initialized = true → 1 ≤ chip → chip ≤ s.cfg.nChips → s.cfg.modeOf mode = none →
      exec (.cacheGet chip mode) s = .next (s.give { status := .invalidMode })) ∧
    (∀ m, s.initialized = true → 1 ≤ chip → chip ≤ s.cfg.nChips → s.cfg.modeOf mode = some m →
      exec (.cacheGet chip mode) s = .next (s.give { status := .ok, mask := some (s.maskAt chip m) }))

/-- R131, R136: CACHE_SET overwrites one mask; every other mask of every chip, and everything else, is unchanged. -/
def Obligations.CacheSetWritesOneMask : Prop :=
  ∀ (s : State) (k : Nat) (m : Mode) (v : Mask), s.cache.length = s.cfg.nChips → 1 ≤ k → k ≤ s.cfg.nChips →
    ∃ t, exec (.cacheSet k m v) s = .next t ∧ t = { s with cache := t.cache } ∧ t.cache.length = s.cfg.nChips ∧
      t.maskAt k m = v ∧
      ∀ k' m', 1 ≤ k' → k' ≤ s.cfg.nChips → (k', m') ≠ (k, m) → t.maskAt k' m' = s.maskAt k' m'

/-- A micro-operation on a chip index outside the chain stops (R50: no such chip; assumption 11). -/
def Obligations.MicroOperationsStopOutsideTheChain : Prop :=
  ∀ (s : State) (k : Nat) (m : Mode) (v : Mask), (k < 1 ∨ s.cfg.nChips < k) →
    exec (.cacheSet k m v) s = .fault .noSuchChip ∧ exec (.transact k m v) s = .fault .noSuchChip ∧
    exec (.tSelect k) s = .fault .noSuchChip ∧ exec (.tDeselect k) s = .fault .noSuchChip

/-! ### ChannelController (42_controller.md) -/

/-- R140 to R143: SET_PROTECTION, SET_DIAGNOSTICS and SET_OUTPUT: the checks in their order, the candidate mask, the
suppression, and the one transaction with either answer. Premises: the invariant, no operation in flight (R28), and a
Transport that answers (U6). The order of the checks is D11, the chip index base D3, the deselect after a failure D8,
the reply returned D9: assumptions 15, 17, 18 and 19. That the chip's register takes the mask too (`State.sent`) is
the peripheral model D31, assumption 7. -/
def Obligations.ChannelOperationsFollowTheCommonBody : Prop :=
  ∀ (s : State) (m : Mode) (chip channel : Nat) (enabled : Bool), s.Inv → s.busy = false → s.env.hung = false →
    let cur := s.maskAt chip m
    let bit : Mask := 1#8 <<< (channel - 1)
    let cand := if enabled then cur ||| bit else cur &&& ~~~bit
    (s.initialized = false →
      exec (channelOp m chip channel enabled) s = .next (s.give { status := .notInitialized })) ∧
    (s.initialized = true → (channel < 1 ∨ 8 < channel) →
      exec (channelOp m chip channel enabled) s = .next (s.give { status := .channelOutOfRange })) ∧
    (s.initialized = true → 1 ≤ channel → channel ≤ 8 → (chip < 1 ∨ s.cfg.nChips < chip) →
      exec (channelOp m chip channel enabled) s = .next (s.give { status := .unknownChip })) ∧
    (s.initialized = true → 1 ≤ channel → channel ≤ 8 → 1 ≤ chip → chip ≤ s.cfg.nChips →
      (cand = cur → exec (channelOp m chip channel enabled) s = .next (s.give { status := .ok })) ∧
      (∀ r, cand ≠ cur → s.nextTransfer = .ok r →
        exec (channelOp m chip channel enabled) s = .next (s.sent chip m cand r)) ∧
      (cand ≠ cur → s.nextTransfer = .fail →
        exec (channelOp m chip channel enabled) s = .next (s.notSent chip m cand)))

/-- R146, R165: SET_MULTIPLE_PINS and TARGETED: the checks in their order, the suppression, and the one transaction
with either answer. Premises and decisions as for the single-channel operations, the chip's register (D31, assumption
7) among them; the chip operand of SET_MULTIPLE_PINS is D6. -/
def Obligations.WholeMaskOperationsSendTheMask : Prop :=
  ∀ (s : State) (chip : Nat) (mode : ModeCode) (mask : Mask) (i : Instr), s.Inv → s.busy = false →
    s.env.hung = false → (i = .setMultiplePins chip mode mask ∨ i = .targeted chip mode mask) →
    (s.initialized = false → exec i s = .next (s.give { status := .notInitialized })) ∧
    (s.initialized = true → (chip < 1 ∨ s.cfg.nChips < chip) → exec i s = .next (s.give { status := .unknownChip })) ∧
    (s.initialized = true → 1 ≤ chip → chip ≤ s.cfg.nChips → s.cfg.modeOf mode = none →
      exec i s = .next (s.give { status := .invalidMode })) ∧
    (∀ m, s.initialized = true → 1 ≤ chip → chip ≤ s.cfg.nChips → s.cfg.modeOf mode = some m →
      (mask = s.maskAt chip m → exec i s = .next (s.give { status := .ok })) ∧
      (∀ r, mask ≠ s.maskAt chip m → s.nextTransfer = .ok r → exec i s = .next (s.sent chip m mask r)) ∧
      (mask ≠ s.maskAt chip m → s.nextTransfer = .fail → exec i s = .next (s.notSent chip m mask)))

/-- R144, R89: the candidate mask differs from the current one in the channel's bit alone, which takes the requested
value. -/
def Obligations.CandidateChangesOneBit : Prop :=
  ∀ (cur : Mask) (channel : Nat) (enabled : Bool) (j : Nat), 1 ≤ channel → channel ≤ 8 → j < 8 →
    (candidate cur channel enabled).getLsbD j = if j = channel - 1 then enabled else cur.getLsbD j

/-- R145: a request for the mask the cache holds returns OK with an empty trace, whatever the chip holds and whether
or not the Transport answers; only the record is given. -/
def Obligations.RedundantRequestsAreSuppressed : Prop :=
  ∀ (s : State) (i : Instr) (chip : Nat) (m : Mode), s.busy = false → AsksFor s i chip m (s.maskAt chip m) →
    exec i s = .next (s.give { status := .ok })

/-- R150: when a single-channel operation returns OK, the channel's bit has the requested value in the mask of its
mode; an out-of-range channel fails with `ChannelOutOfRange` and an empty trace. -/
def Obligations.ChannelBitFollowsTheRequest : Prop :=
  (∀ (s t : State) (m : Mode) (chip channel : Nat) (enabled : Bool) (r : Result), s.Inv → s.busy = false →
    exec (channelOp m chip channel enabled) s = .next t → t.result = some r → r.status = .ok →
      (t.maskAt chip m).getLsbD (channel - 1) = enabled) ∧
  (∀ (s : State) (m : Mode) (chip channel : Nat) (enabled : Bool), s.busy = false → s.initialized = true →
    (channel < 1 ∨ 8 < channel) →
      exec (channelOp m chip channel enabled) s = .next (s.give { status := .channelOutOfRange }))

/-- R151: a set operation transacts once if it asks for another mask than the cached one and else not at all;
presented again after it returned OK it is suppressed; after `TransportFailure` it is not, and transacts again. -/
def Obligations.RepeatedRequestTransactsOnlyAfterFailure : Prop :=
  ∀ (s t : State) (i : Instr) (chip : Nat) (m : Mode) (v : Mask) (r : Result), s.Inv → s.busy = false →
    AsksFor s i chip m v → exec i s = .next t → t.result = some r →
      transferCount r.trace = (if s.maskAt chip m = v then 0 else 1) ∧
      (r.status = .ok → exec i t = .next (t.give { status := .ok })) ∧
      (r.status = .transportFailure → ∃ u q, exec i t = .next u ∧ u.result = some q ∧ transferCount q.trace = 1)

/-- R152, second half: for a valid channel a single-channel operation and SET_MULTIPLE_PINS with the candidate mask
have the same outcome, whatever the state. -/
def Obligations.ChannelOperationIsAWholeMaskOperation : Prop :=
  ∀ (s : State) (m : Mode) (chip channel : Nat) (enabled : Bool), s.cfg.wf = true → 1 ≤ channel → channel ≤ 8 →
    exec (channelOp m chip channel enabled) s =
      exec (.setMultiplePins chip (s.cfg.code m) (candidate (s.maskAt chip m) channel enabled)) s

/-- R152, first half: with every transfer answered ok, one SET_MULTIPLE_PINS and the single-channel operations for the
channels whose bits differ leave the same masks in the cache and in the chips; the one makes at most one transfer, the
others one each; and CACHE_GET then yields the mask. The clause on the chips is of the peripheral model D31,
assumption 7. -/
def Obligations.BatchEqualsTheChannelsOneByOne : Prop :=
  ∀ (s : State) (m : Mode) (chip : Nat) (mask : Mask) (rs : List Word), s.Inv → s.busy = false →
    s.env.hung = false → s.initialized = true → 1 ≤ chip → chip ≤ s.cfg.nChips → rs.length = 8 →
    s.env.transferAnswers = rs.map .ok →
    let channels := ((List.range 8).map (· + 1)).filter fun c =>
      decide ((s.maskAt chip m).getLsbD (c - 1) ≠ mask.getLsbD (c - 1))
    ∃ t u : State,
      runOps (channels.map fun c => channelOp m chip c (mask.getLsbD (c - 1))) s = .next t ∧
      exec (.setMultiplePins chip (s.cfg.code m) mask) s = .next u ∧
      t.cache = u.cache ∧ t.env.periph = u.env.periph ∧ t.cs = u.cs ∧ t.initialized = u.initialized ∧
      t.env.transferAnswers.length = 8 - channels.length ∧ 7 ≤ u.env.transferAnswers.length ∧
      exec (.cacheGet chip (s.cfg.code m)) u = .next (u.give { status := .ok, mask := some mask })

/-! ### ChipChain (43_chain.md) -/

/-- R161: TRANSACT with either answer: select, one transfer of `ENCODE(CODE(m), v)`, deselect, and on ok the cache
write and the decoded reply (deselect after a failure: D8, reply returned: D9; assumptions 17 and 18). -/
def Obligations.TransactFollowsTheAnswer : Prop :=
  ∀ (s : State) (k : Nat) (m : Mode) (v : Mask), s.Inv → s.busy = false → s.env.hung = false → 1 ≤ k →
    k ≤ s.cfg.nChips →
    (∀ r, s.nextTransfer = .ok r → exec (.transact k m v) s = .next (s.sent k m v r)) ∧
    (s.nextTransfer = .fail → exec (.transact k m v) s = .next (s.notSent k m v))

/-- R166: BROADCAST checks initialisation, then the mode, once and before any chip (the order is D11: assumption 15).
-/
def Obligations.BroadcastChecksOnceBeforeTheFirstChip : Prop :=
  ∀ (s : State) (mode : ModeCode) (mask : Mask), s.busy = false →
    (s.initialized = false → exec (.broadcast mode mask) s = .next (s.give { status := .notInitialized })) ∧
    (s.initialized = true → s.cfg.modeOf mode = none →
      exec (.broadcast mode mask) s = .next (s.give { status := .invalidMode }))

/-- R166 to R168, R171: when the transfers are all answered ok, BROADCAST sends the word to exactly the chips that do
not hold the mask, in ascending order, returns their replies in that order (D9, D28: assumption 18), and changes
nothing else. -/
def Obligations.BroadcastServesTheChipsThatDiffer : Prop :=
  ∀ (s : State) (mode : ModeCode) (m : Mode) (mask : Mask) (rs : List Word) (rest : List TransferAnswer), s.Inv →
    s.busy = false → s.env.hung = false → s.initialized = true → s.cfg.modeOf mode = some m →
    rs.length = (chipsToServe s m mask).length → s.env.transferAnswers = rs.map .ok ++ rest →
    let ks := chipsToServe s m mask
    let w := wireWord mode mask
    exec (.broadcast mode mask) s = .next
      { s with
        cache := takeAll m mask s.cache ks
        env := { s.env with periph := takeAll m mask s.env.periph ks, transferAnswers := rest }
        result := some { status := .ok, replies := okReplies ks rs, trace := okEvents w ks rs } }

/-- R169, R171, R163: at the first failed transfer BROADCAST stops: the chips before have taken the mask, the failing
one is deselected (D8: assumption 17) and reported with its index, the later ones are not selected, the replies so far
are returned (D28: assumption 18). The chips' registers are D31 (assumption 7). -/
def Obligations.BroadcastStopsAtTheFirstFailure : Prop :=
  ∀ (s : State) (mode : ModeCode) (m : Mode) (mask : Mask) (rs : List Word) (rest : List TransferAnswer) (k : Nat),
    s.Inv → s.busy = false → s.env.hung = false → s.initialized = true → s.cfg.modeOf mode = some m →
    (chipsToServe s m mask)[rs.length]? = some k → s.env.transferAnswers = rs.map .ok ++ .fail :: rest →
    let ks := (chipsToServe s m mask).take rs.length
    let w := wireWord mode mask
    exec (.broadcast mode mask) s = .next
      { s with
        cache := takeAll m mask s.cache ks
        env := { s.env with periph := takeAll m mask s.env.periph ks, transferAnswers := rest }
        result := some { status := .transportFailure, failIndex := some k, replies := okReplies ks rs
                         trace := okEvents w ks rs ++ transactionEvents k w .fail } }

/-- R170: whatever the Transport answers, BROADCAST completes, and either every chip holds the mask, or the failing
chip and those after it hold what they held and those before it hold the mask; no other mode's mask changes. -/
def Obligations.BroadcastDoesNotRollBack : Prop :=
  ∀ (s : State) (mode : ModeCode) (m : Mode) (mask : Mask), s.Inv → s.busy = false → s.env.hung = false →
    s.initialized = true → s.cfg.modeOf mode = some m →
    ∃ t r, exec (.broadcast mode mask) s = .next t ∧ t.result = some r ∧
      (∀ k m', 1 ≤ k → k ≤ s.cfg.nChips → m' ≠ m → t.maskAt k m' = s.maskAt k m') ∧
      ((r.status = .ok ∧ r.failIndex = none ∧ ∀ k, 1 ≤ k → k ≤ s.cfg.nChips → t.maskAt k m = mask) ∨
        (∃ k, r.status = .transportFailure ∧ r.failIndex = some k ∧ 1 ≤ k ∧ k ≤ s.cfg.nChips ∧
          s.maskAt k m ≠ mask ∧ (∀ j, 1 ≤ j → j < k → t.maskAt j m = mask) ∧
          ∀ j, k ≤ j → j ≤ s.cfg.nChips → t.maskAt j m = s.maskAt j m))

/-- R170, last sentence: after a failure at chip `k` the same broadcast has left to serve exactly the chips from `k`
on that did not hold the mask; presented again it completes, whatever the Transport answers, its first event selects
`k`, and it selects no chip before `k`. -/
def Obligations.BroadcastResumesAtTheFailedChip : Prop :=
  ∀ (s t : State) (mode : ModeCode) (m : Mode) (mask : Mask) (r : Result) (k : Nat), s.Inv → s.busy = false →
    s.initialized = true → s.cfg.modeOf mode = some m → exec (.broadcast mode mask) s = .next t →
    t.result = some r → r.failIndex = some k →
      chipsToServe t m mask = ((chipsToServe s m mask).filter fun j => decide (k ≤ j)) ∧
      ∃ u q, exec (.broadcast mode mask) t = .next u ∧ u.result = some q ∧ (∃ es, q.trace = .select k :: es) ∧
        ∀ j, Event.select j ∈ q.trace → k ≤ j

/-- R172 and R153 (h): a single-chip set operation changes no mask but that of its chip and mode, and its trace names
no other chip. That the sequencer's cursor and latches, which R30 leaves open between operations, keep their values is
the model's choice (assumption 35). -/
def Obligations.SingleChipOperationsTouchNoOtherChip : Prop :=
  ∀ (s t : State) (i : Instr) (chip : Nat) (m : Mode) (v : Mask) (r : Result), s.Inv → s.busy = false →
    AsksFor s i chip m v → exec i s = .next t → t.result = some r →
      (∀ k' m', 1 ≤ k' → k' ≤ s.cfg.nChips → (k', m') ≠ (chip, m) → t.maskAt k' m' = s.maskAt k' m') ∧
      (∀ k, Event.select k ∈ r.trace → k = chip) ∧ (∀ k, Event.deselect k ∈ r.trace → k = chip) ∧
      t.initialized = s.initialized ∧ t.cs = s.cs ∧ t.seq = s.seq ∧ t.busy = s.busy ∧ t.cfg = s.cfg

/-- R174, R178: the trace of every host operation is a concatenation of select, transfer, deselect triples, one for
each of strictly ascending chips of the chain, all with the same word of ENCODE's image, of which only the last can
have failed; or for INIT, when not initialised, the one event T_INIT. A single-chip operation makes at most one
transfer. -/
def Obligations.TracesAreBracketedTransactions : Prop :=
  ∀ (s t : State) (i : Instr) (r : Result), s.Inv → s.busy = false → isHostOperation i = true →
    exec i s = .next t → t.result = some r →
      ((∃ m v, transactionsAbove s.cfg.nChips (wireWord (s.cfg.code m) v) 0 r.trace) ∨
        (i = .init ∧ s.initialized = false ∧ ∃ a, r.trace = [.init a])) ∧
      ((∀ mode mask, i ≠ .broadcast mode mask) → transferCount r.trace ≤ 1) ∧
      (r.status.isValidation = true → r.trace = [])

/-- R179: on a chain of one chip BROADCAST and TARGETED on chip 1 are the same operation. -/
def Obligations.BroadcastOnOneChipIsTargeted : Prop :=
  ∀ (s : State) (mode : ModeCode) (mask : Mask), s.Inv → s.cfg.nChips = 1 →
    exec (.broadcast mode mask) s = exec (.targeted 1 mode mask) s

/-! ### Transport and system operations (44_transport_system.md) -/

/-- R190 to R192: INIT calls T_INIT once and on ok zeroes all masks and lines and sets `initialized`; on fail it
returns `TransportFailure` without an index and leaves the state; when already initialised it does nothing (D12, D13:
assumption 16). -/
def Obligations.InitFollowsTheAnswer : Prop :=
  ∀ s : State, s.Inv → s.busy = false →
    (s.initialized = true → exec .init s = .next (s.give { status := .ok })) ∧
    (s.initialized = false → s.env.hung = false → s.nextInit = .ok →
      exec .init s = .next
        { s.dropInit with
          cache := List.replicate s.cfg.nChips .zero
          cs := List.replicate s.cfg.nChips false
          initialized := true
          result := some { status := .ok, trace := [.init .ok] } }) ∧
    (s.initialized = false → s.env.hung = false → s.nextInit = .fail →
      exec .init s = .next
        { s.dropInit with result := some { status := .transportFailure, trace := [.init .fail] } })

/-- R183 to R185 as micro-operations: each appends its event to the trace; T_SELECT sets its chip's line and
T_DESELECT clears it; T_INIT writes no state of the block. Nothing else changes (D7, D17: assumption 28). -/
def Obligations.SelectAndDeselectMoveOneLine : Prop :=
  ∀ (s : State) (k : Nat), s.env.hung = false → 1 ≤ k → k ≤ s.cfg.nChips → s.cs.length = s.cfg.nChips →
    exec .tInit s = .next { s.dropInit with trace := s.trace ++ [.init s.nextInit] } ∧
    (∃ t, exec (.tSelect k) s = .next t ∧ t = { s with cs := t.cs, trace := s.trace ++ [.select k] } ∧
      t.cs[k - 1]? = some true ∧ t.cs.length = s.cs.length ∧ ∀ j, j ≠ k - 1 → t.cs[j]? = s.cs[j]?) ∧
    (∃ t, exec (.tDeselect k) s = .next t ∧ t = { s with cs := t.cs, trace := s.trace ++ [.deselect k] } ∧
      t.cs[k - 1]? = some false ∧ t.cs.length = s.cs.length ∧ ∀ j, j ≠ k - 1 → t.cs[j]? = s.cs[j]?)

/-- R186 with the peripheral model of D31 (assumption 7): T_TRANSFER takes one answer, appends one event and writes no
state of the block; answered ok, the selected chips take the mask of a command word; answered fail, or for any other
word, the chips keep their registers. -/
def Obligations.TransferReachesTheSelectedChips : Prop :=
  ∀ (s : State) (w : Word), s.cfg.wf = true → s.env.hung = false → ∃ t,
    exec (.tTransfer w) s = .next t ∧
    t = { s.dropTransfer with
          trace := s.trace ++ [.transfer w s.nextTransfer]
          env := { s.dropTransfer.env with periph := t.env.periph } } ∧
    (s.nextTransfer = .fail → t.env.periph = s.env.periph) ∧
    (∀ r, s.nextTransfer = .ok r →
      (∀ m v, w = wireWord (s.cfg.code m) v → t.env.periph = setSelected m v s.cs s.env.periph) ∧
      ((∀ m v, w ≠ wireWord (s.cfg.code m) v) → t.env.periph = s.env.periph))

/-- R95 with the peripheral model of D31 (assumptions 7 and 8): the words WR_PROTECT, WR_DIAG and WR_OUTPUT write the
mask into their register of every selected chip; no other register, chip or state of the block changes. -/
def Obligations.BusWordsWriteTheSelectedChips : Prop :=
  ∀ (s : State) (m : Mode) (v : Mask), s.env.periph.length = s.cfg.nChips → ∃ p,
    exec (writeInstr m v) s = .next { s with env := { s.env with periph := p } } ∧ p.length = s.cfg.nChips ∧
      ∀ k, 1 ≤ k → k ≤ s.cfg.nChips →
        (chipEntry p k).get m = (if s.cs.getD (k - 1) false then v else (chipEntry s.env.periph k).get m) ∧
        ∀ m', m' ≠ m → (chipEntry p k).get m' = (chipEntry s.env.periph k).get m'

/-- R87, R164 (assumption 9): the reply of the chip whose line is asserted is decoded and returned as data; with no
line asserted there is no reply; the state of the block does not change. -/
def Obligations.ReplyIsDecodedForTheSelectedChip : Prop :=
  ∀ (s : State) (w : Word), s.Inv → exec (.reply w) s = .next (s.give
    { status := .ok
      replies := if s.seq.phase.lineUp then [(s.seq.cur, rev8 (w.extractLsb' 8 8))] else [] })

/-- R97, R195 (assumptions 6 and 10): a reserved selector and ENABLE_PWM leave the block as it is, in every state. -/
def Obligations.ReservedAndPwmChangeNothing : Prop :=
  ∀ (s : State) (op : OpSel) (channel : Nat),
    exec (.reservedOp op) s = .next s ∧ exec (.enablePwm channel) s = .next s

/-- R196, R248, U6 (assumption 12): while the Transport is hung, everything that would call it stops at the operation
level; at the event level each of the four phases that call it goes on waiting (R252), and the block stays busy. -/
def Obligations.HungTransportNeverReturns : Prop :=
  (∀ s : State, s.env.hung = true → s.busy = false →
    (s.initialized = false → exec .init s = .fault .transportHung) ∧
    (∀ i chip m v, AsksFor s i chip m v → s.maskAt chip m ≠ v → exec i s = .fault .transportHung) ∧
    (∀ mode m mask, s.initialized = true → s.cfg.modeOf mode = some m → chipsToServe s m mask ≠ [] →
      exec (.broadcast mode mask) s = .fault .transportHung)) ∧
  (∀ (s : State) (k : Nat) (m : Mode) (v : Mask) (w : Word), s.env.hung = true → 1 ≤ k → k ≤ s.cfg.nChips →
    exec (.transact k m v) s = .fault .transportHung ∧ exec .tInit s = .fault .transportHung ∧
    exec (.tSelect k) s = .fault .transportHung ∧ exec (.tDeselect k) s = .fault .transportHung ∧
    exec (.tTransfer w) s = .fault .transportHung) ∧
  (∀ s : State, s.env.hung = true → s.env.inputs = [] → s.busy = true →
    (s.seq.phase = .busInit ∨ s.seq.phase = .select ∨ s.seq.phase = .transfer ∨ s.seq.phase = .deselect) →
      step s = .next { s with result := none })

/-! ### Errors (60_exceptions.md) -/

/-- R200: the numbers of the statuses, and that 6 and 7 are never produced (the numbers are decision D10). -/
def Obligations.StatusNumbersAreDistinct : Prop :=
  Status.ok.number = 0#3 ∧ Status.channelOutOfRange.number = 1#3 ∧ Status.invalidMode.number = 2#3 ∧
  Status.unknownChip.number = 3#3 ∧ Status.transportFailure.number = 4#3 ∧ Status.notInitialized.number = 5#3 ∧
  (∀ e : Status, Status.ofNumber e.number = some e) ∧ (∀ e : Status, e.number ≠ 6#3 ∧ e.number ≠ 7#3)

/-- R206: each operation ends only with the statuses of the table's row, and an accepted host operation always returns
a record. -/
def Obligations.OperationsEndAsTheTableSays : Prop :=
  ∀ (s t : State) (i : Instr), s.busy = false →
    (isHostOperation i = true ∨ (∃ mode mask, i = .encode mode mask) ∨ (∃ w, i = .decode w)) → exec i s = .next t →
      ∃ r, t.result = some r ∧ mayEndWith i r.status = true

/-- R209: an operation that ends with a validation error has an empty trace and leaves every piece of state exactly as
it found it; only the record is given. It holds of BROADCAST too, so an invalid mode never gives a partial one. -/
def Obligations.ValidationErrorsChangeNothing : Prop :=
  ∀ (s t : State) (i : Instr) (r : Result), s.busy = false →
    (isHostOperation i = true ∨ ∃ mode mask, i = .encode mode mask) → exec i s = .next t →
    t.result = some r → r.status.isValidation = true → t = s.give r ∧ r.trace = [] ∧ r.replies = []

/-- R211, R213: after `TransportFailure` the whole cache is as before, but for a BROADCAST, where the failing chip's
masks are; no line is asserted (D8: assumption 17); `initialized` is as before, which is 1 if a transfer failed;
without an index the operation is INIT (D13: assumption 16); and the block is ready. -/
def Obligations.TransportFailureLeavesTheCacheUntouched : Prop :=
  ∀ (s t : State) (i : Instr) (r : Result), s.Inv → s.busy = false → isHostOperation i = true → exec i s = .next t →
    t.result = some r → r.status = .transportFailure →
      ((∀ mode mask, i ≠ .broadcast mode mask) → t.cache = s.cache) ∧
      (∀ k, r.failIndex = some k → chipEntry t.cache k = chipEntry s.cache k ∧ t.initialized = true) ∧
      (r.failIndex = none → i = .init ∧ t.cache = s.cache) ∧
      t.cs = List.replicate s.cfg.nChips false ∧ t.initialized = s.initialized ∧ t.busy = false

/-- R205, R232: before initialisation every host operation but INIT returns `NotInitialized`, whatever its operands.
-/
def Obligations.NothingRunsBeforeInit : Prop :=
  ∀ (s : State) (i : Instr), s.busy = false → s.initialized = false → isHostOperation i = true → i ≠ .init →
    exec i s = .next (s.give { status := .notInitialized })

/-- R24: what `exec` does to the cache: only CACHE_SET writes it without the bus, INIT only when it initialises, and
any other instruction only with an ok transfer in its trace. -/
def Obligations.CacheIsWrittenOnlyAfterAnOkTransfer : Prop :=
  ∀ (s t : State) (i : Instr), s.Inv → exec i s = .next t → t.cache ≠ s.cache →
    (∃ k m v, i = .cacheSet k m v) ∨
    (∃ r w a, t.result = some r ∧ Event.transfer w (.ok a) ∈ r.trace)

/-- R25: a step sets `initialized` only by an INIT that is presented or in flight, and clears it only by reset. -/
def Obligations.OnlyInitAndResetMoveInitialized : Prop :=
  ∀ s t : State, s.Inv → step s = .next t →
    (s.initialized = false → t.initialized = true →
      s.seq.phase = .busInit ∨ ∃ r rest, s.env.inputs = .port (.request r) :: rest ∧ r.op = 0#4) ∧
    (s.initialized = true → t.initialized = false → ∃ rest, s.env.inputs = .env .reset :: rest)

/-- R8, R10, D2: no step changes the parameters. -/
def Obligations.ParametersNeverChange : Prop :=
  ∀ s t : State, step s = .next t → t.cfg = s.cfg

/-! ### The sequencer at the event level (43_chain.md section 6) -/

/-- R175 (D18: assumption 14): a phase makes at most one Transport call; the call is the last event of the trace of
the operation in flight, which DONE hands to the host. -/
def Obligations.EachPhaseMakesAtMostOneCall : Prop :=
  ∀ s t : State, s.Inv → s.busy = true → s.env.inputs = [] → step s = .next t →
    (s.seq.phase ≠ .done → t.trace = s.trace ∨ ∃ e, t.trace = s.trace ++ [e]) ∧
    (s.seq.phase = .done → t.busy = false ∧ t.trace = [] ∧
      t.result = some { status := s.seq.pendStatus, failIndex := s.seq.pendFail, replies := s.replies,
                        trace := s.trace })

/-- R177 (D18, D24: assumption 14): the two levels agree. From an idle state at the event level with one request
presented and a Transport that answers, some number of steps, at most five for each chip and two more, brings the
machine to the state that the operation level reaches in one, but for the sequencer's latches, which no rule reads
between operations (R30, R36). -/
def Obligations.WalkOfPhasesAgreesWithTheOperation : Prop :=
  ∀ (s : State) (r : Request), s.Inv → s.busy = false → s.level = .event → s.env.hung = false →
    s.env.inputs = [.port (.request r)] →
    ∃ n t, n ≤ 5 * s.cfg.nChips + 2 ∧ core.run n s = .next t ∧ t.busy = false ∧ t.seq.phase = .idle ∧
      exec (decodeRequest r) { s with result := none, env := { s.env with inputs := [] } } =
        .next { t with seq := s.seq }

/-- The invariant is kept by every step, at both levels and whatever is presented. -/
def Obligations.StepKeepsTheInvariant : Prop :=
  ∀ s t : State, s.Inv → step s = .next t → t.Inv

/-- R27 (D17): between operations no line is asserted; at any time at most one is; in the phases around the transfer
it is that of the chip handled; and when a transaction selects chip `k` from an idle state, chip `k` alone is
selected. -/
def Obligations.SelectLinesAreExclusive : Prop :=
  ∀ s : State, s.Inv →
    (s.busy = false → s.cs = List.replicate s.cfg.nChips false) ∧
    (∀ j k : Nat, s.cs[j]? = some true → s.cs[k]? = some true → j = k) ∧
    (s.seq.phase = .transfer ∨ s.seq.phase = .deselect → assertedFrom 1 s.cs = [s.seq.cur]) ∧
    (∀ k, s.busy = false → 1 ≤ k → k ≤ s.cfg.nChips → assertedFrom 1 (s.tSelect k).cs = [k])

/-- D31 (assumption 7): under hazards H1 to H3 and H5 every step keeps the chips in agreement with the cache. -/
def Obligations.ChipsAgreeWithTheCache : Prop :=
  ∀ s t : State, s.Inv → s.Coherent → s.Undisturbed → step s = .next t → t.Coherent

/-- R23: every step keeps each mask equal to that of the last word successfully sent, at both levels. -/
def Obligations.CacheReflectsTheWordsSent : Prop :=
  ∀ (s t : State) (h : List Event), s.Inv → s.Reflects h → step s = .next t → t.Reflects (historyAfter s t h)

/-! ### Reset (10_state.md section 5, 70_reset_and_hazards.md) -/

/-- R36 (D16): the state after reset, for whatever legal parameters (what the rule gives; the latches that it leaves
unspecified are assumption 5). -/
def Obligations.ResetLeavesTheStateOfTheRule : Prop :=
  State.reset.initialized = false ∧ State.reset.cs = List.replicate State.reset.cfg.nChips false ∧
  (∀ k m, State.reset.maskAt k m = 0x00#8) ∧ State.reset.busy = false ∧ State.reset.seq.phase = .idle ∧
  1 ≤ State.reset.cfg.nChips

/-- The state after reset meets the invariant, agrees with the chips and with the empty history. -/
def Obligations.ResetMeetsTheInvariant : Prop :=
  State.reset.Inv ∧ State.reset.Coherent ∧ State.reset.Reflects [] ∧
  ∀ c : Config, c.wf = true → (State.init c).Inv ∧ (State.init c).Coherent ∧ (State.init c).Reflects []

/-- R230, R231 (D16, D23; assumption 33): the reset input puts the block in the state of R36 whatever it was doing,
with no result; the chips keep their registers, and what is presented next and the coming answers stay. -/
def Obligations.ResetInputAbandonsTheOperation : Prop :=
  ∀ (s : State) (rest : List Input), s.env.inputs = .env .reset :: rest → ∃ t, step s = .next t ∧
    t.initialized = false ∧ t.cache = List.replicate s.cfg.nChips .zero ∧
    t.cs = List.replicate s.cfg.nChips false ∧ t.busy = false ∧ t.seq.phase = .idle ∧ t.result = none ∧
    t.trace = [] ∧ t.replies = [] ∧ t.env.periph = s.env.periph ∧ t.env.inputs = rest ∧
    t.env.transferAnswers = s.env.transferAnswers ∧ t.env.initAnswers = s.env.initAnswers
end

