-- ==== Sys2Proof/Laws/Bits.lean ====
section
/-! SUPPORT. The laws of FrameCodec's functions of bits, of the mode codes and of the command words. -/

namespace Sys2Proof

/-- Bit `i` of `rev16` (R110). -/
theorem getLsbD_rev16 (v : Word) (i : Nat) (h : i < 16) : (rev16 v).getLsbD i = v.getLsbD (15 - i) := by
  unfold rev16; rw [BitVec.getLsbD_reverse, BitVec.getMsbD]; simp [h]

/-- Bit `i` of `rev8` (R110). -/
theorem getLsbD_rev8 (v : Mask) (i : Nat) (h : i < 8) : (rev8 v).getLsbD i = v.getLsbD (7 - i) := by
  unfold rev8; rw [BitVec.getLsbD_reverse, BitVec.getMsbD]; simp [h]

/-- Bit `i` of `rev4` (R110). -/
theorem getLsbD_rev4 (v : ModeCode) (i : Nat) (h : i < 4) : (rev4 v).getLsbD i = v.getLsbD (3 - i) := by
  unfold rev4; rw [BitVec.getLsbD_reverse, BitVec.getMsbD]; simp [h]

/-- `rev16` undoes itself (R111). -/
@[simp] theorem rev16_rev16 (v : Word) : rev16 (rev16 v) = v := by simp [rev16]

/-- The three fields of a packed word (R112). -/
theorem pack_fields (code : ModeCode) (mask : Mask) :
   (pack code mask).extractLsb' 12 4 = busAddress ∧ (pack code mask).extractLsb' 8 4 = code ∧
     (pack code mask).extractLsb' 0 8 = mask := by
  refine ⟨?_, ?_, ?_⟩ <;>
    (apply BitVec.eq_of_getLsbD_eq; intro i hi; rw [BitVec.getLsbD_extractLsb', pack, BitVec.getLsbD_append])
  · rw [if_neg (by omega), BitVec.getLsbD_append, if_neg (by omega)]
    simp only [hi, decide_true, Bool.true_and]; congr 1; omega
  · rw [if_neg (by omega), BitVec.getLsbD_append, if_pos (by omega)]
    simp only [hi, decide_true, Bool.true_and]; congr 1; omega
  · rw [if_pos (by omega)]
    simp only [hi, decide_true, Bool.true_and]; congr 1; omega

/-- Under legal parameters `MODE_OF` inverts `CODE` (R13). -/
theorem modeOf_eq_some_iff {c : Config} (h : c.wf = true) (code : ModeCode) (m : Mode) :
    c.modeOf code = some m ↔ code = c.code m := by
  simp only [Config.wf, Bool.and_eq_true, decide_eq_true_eq] at h
  obtain ⟨⟨⟨_, h1⟩, h2⟩, h3⟩ := h
  unfold Config.modeOf
  cases m <;> simp only [Config.code] <;> split_ifs <;> simp_all [eq_comm]

/-- The code of a mode is recognised, under any parameters. -/
theorem modeOf_code_isSome (c : Config) (m : Mode) : ∃ m', c.modeOf (c.code m) = some m' := by
  unfold Config.modeOf; cases m <;> simp only [Config.code] <;> split_ifs <;> simp_all

/-- `MODE_OF` is none exactly on the codes that are none of the three (R13). -/
theorem modeOf_eq_none_iff {c : Config} {code : ModeCode} :
    c.modeOf code = none ↔ ¬(code = c.codeProtect ∨ code = c.codeDiag ∨ code = c.codeOutput) := by
  unfold Config.modeOf; split_ifs <;> simp_all

/-- Equal wire words have equal fields (R115). -/
theorem wireWord_inj {a b : ModeCode} {m n : Mask} (h : wireWord a m = wireWord b n) : a = b ∧ m = n := by
  have hp : pack a m = pack b n := by
    have := congrArg rev16 h; simpa [wireWord] using this
  refine ⟨?_, ?_⟩
  · rw [← (pack_fields a m).2.1, hp, (pack_fields b n).2.1]
  · rw [← (pack_fields a m).2.2, hp, (pack_fields b n).2.2]

/-- When ENCODE succeeds, and with what (R113). -/
theorem frameEncode_eq_some_iff {c : Config} {a : ModeCode} {m : Mask} {w} :
    frameEncode c a m = some w ↔ w = wireWord a m ∧ c.modeOf a ≠ none := by
  unfold frameEncode; cases h : c.modeOf a <;> simp [eq_comm]

/-- Bit `i` of the decoded mask (R117). -/
theorem getLsbD_frameDecode (w : Word) (i : Nat) (hi : i < 8) : (frameDecode w).getLsbD i = w.getLsbD (15 - i) := by
  rw [frameDecode, BitVec.getLsbD_extractLsb']
  simp only [hi, decide_true, Bool.true_and, Nat.zero_add]
  exact getLsbD_rev16 w i (by omega)

/-- DECODE takes the mask out of a wire word (R118). -/
theorem frameDecode_wireWord (code : ModeCode) (mask : Mask) : frameDecode (wireWord code mask) = mask := by
  rw [frameDecode, wireWord, rev16_rev16, (pack_fields code mask).2.2]

/-- The fields of a wire word of a mode (R81, R82). -/
theorem commandFields_wireWord {c : Config} (h : c.wf = true) (m : Mode) (v : Mask) :
    commandFields c (rev16 (wireWord (c.code m) v)) = .ok (m, v) := by
  have hp := pack_fields (c.code m) v
  simp [commandFields, wireWord, hp, (modeOf_eq_some_iff h (c.code m) m).2 rfl]

/-- A word whose logical address is `1010b` is the wire word of its own fields (R81, R82). -/
theorem wireWord_fields_iff (w : Word) : w = wireWord ((rev16 w).extractLsb' 8 4) ((rev16 w).extractLsb' 0 8) ↔
    (rev16 w).extractLsb' 12 4 = busAddress := by
  constructor
  · intro h; rw [h, wireWord, rev16_rev16]; exact (pack_fields _ _).1
  · intro h
    have : rev16 w = pack ((rev16 w).extractLsb' 8 4) ((rev16 w).extractLsb' 0 8) := by
      rw [pack, ← h]
      apply BitVec.eq_of_getLsbD_eq; intro i hi
      simp only [BitVec.getLsbD_append, BitVec.getLsbD_extractLsb']
      by_cases h1 : i < 8
      · simp [h1]
      · by_cases h2 : i - 8 < 4
        · simp [h1, h2]; congr 1; omega
        · have : i - 8 - 4 < 4 := by omega
          simp [h1, h2, this]; congr 1; omega
    rw [wireWord, ← this, rev16_rev16]

/-- A word that is no mode's wire word has no command fields (R96). -/
theorem commandFields_error_of_ne {c : Config} (hc : c.wf = true) {w : Word} (h : ∀ m v, w ≠ wireWord (c.code m) v) :
    ∃ e, commandFields c (rev16 w) = .error e := by
  unfold commandFields
  by_cases h1 : (rev16 w).extractLsb' 12 4 = busAddress
  · cases h2 : c.modeOf ((rev16 w).extractLsb' 8 4) with
    | none => simp [h1]
    | some m =>
      exfalso; apply h m ((rev16 w).extractLsb' 0 8)
      rw [← (modeOf_eq_some_iff hc _ _).1 h2]; exact (wireWord_fields_iff w).2 h1
  · simp [h1]

/-- Under legal parameters the codes of different modes differ (R85). -/
theorem code_eq_iff {c : Config} (hc : c.wf = true) {m m' : Mode} : c.code m = c.code m' ↔ m = m' := by
  constructor
  · intro h
    have := (modeOf_eq_some_iff hc (c.code m) m').2 h
    rw [(modeOf_eq_some_iff hc _ m).2 rfl] at this; simpa using this
  · rintro rfl; rfl

end Sys2Proof
end

