-- ==== Sys2Proof/Laws/Operands.lean ====
section
/-! SUPPORT. The laws of the lists of masks, of the select lines and of the operand ranges. -/

namespace Sys2Proof.Machine

/-- A mask read after one is written (R131). -/
@[simp] theorem ChipState.get_set (c : ChipState) (m m' : Mode) (v : Mask) :
    (c.set m v).get m' = if m' = m then v else c.get m' := by cases m <;> cases m' <;> rfl

/-- Writing the mask already held changes nothing. -/
theorem ChipState.set_get (c : ChipState) (m : Mode) : c.set m (c.get m) = c := by cases m <;> rfl

/-- Three equal masks make equal entries. -/
theorem ChipState.ext_get {a b : ChipState} (h : ∀ m, a.get m = b.get m) : a = b := by
  have h1 := h .protect; have h2 := h .diag; have h3 := h .output
  cases a; cases b; simp_all [ChipState.get]

/-- Writing an entry keeps the number of chips. -/
@[simp] theorem setEntry_length (l : List ChipState) (k m v) : (setEntry l k m v).length = l.length := by
  simp [setEntry]

/-- An entry read after one is written. -/
theorem chipEntry_setEntry {l : List ChipState} {k k' : Nat} (m : Mode) (v : Mask) (h1 : 1 ≤ k) (h2 : k ≤ l.length)
    (h3 : 1 ≤ k') :
    chipEntry (setEntry l k m v) k' = if k' = k then (chipEntry l k).set m v else chipEntry l k' := by
  unfold setEntry
  simp only [chipEntry, List.getD_eq_getElem?_getD, List.getElem?_set]
  by_cases h : k' = k
  · subst h; have h4 : k' - 1 < l.length := by omega
    simp [h4]
  · have : ¬ (k - 1 = k' - 1) := by omega
    simp [h, this]

/-- A mask read after one is written (R136). -/
theorem get_chipEntry_setEntry {l : List ChipState} {k j : Nat} (m m' v) (h1 : 1 ≤ k) (h2 : k ≤ l.length)
    (h3 : 1 ≤ j) :
   (chipEntry (setEntry l k m v) j).get m' = if j = k ∧ m' = m then v else (chipEntry l j).get m' := by
  rw [chipEntry_setEntry _ _ h1 h2 h3]; split <;> simp_all

/-- The entry of a chip of the chain. -/
theorem getElem_eq_chipEntry {l : List ChipState} {k : Nat} (h1 : 1 ≤ k) (h2 : k ≤ l.length) :
    l[k-1]? = some (chipEntry l k) := by
  have h : k - 1 < l.length := by omega
  simp [chipEntry, List.getD_eq_getElem?_getD, h]

/-- Lists with equal entries are equal. -/
theorem ext_chipEntry {l l' : List ChipState} (hl : l.length = l'.length) (h : ∀ k, 1 ≤ k → k ≤ l.length →
    chipEntry l k = chipEntry l' k) : l = l' := by
  apply List.ext_getElem?
  intro i
  by_cases hi : i < l.length
  · have := h (i+1) (by omega) (by omega)
    have e1 := getElem_eq_chipEntry (l := l) (k := i+1) (by omega) (by omega)
    have e2 := getElem_eq_chipEntry (l := l') (k := i+1) (by omega) (by omega)
    simp at e1 e2; rw [e1, e2, this]
  · rw [List.getElem?_eq_none (by omega), List.getElem?_eq_none (by omega)]

/-- The second of two writes to one mask wins. -/
theorem setEntry_setEntry {l : List ChipState} {k} (m v v') (h1 : 1 ≤ k) (h2 : k ≤ l.length):
    setEntry (setEntry l k m v) k m v' = setEntry l k m v' := by
  apply ext_chipEntry (by simp)
  intro j hj _
  rw [chipEntry_setEntry _ _ h1 (by simpa using h2) hj, chipEntry_setEntry _ _ h1 h2 h1,
    chipEntry_setEntry _ _ h1 h2 hj, chipEntry_setEntry _ _ h1 h2 hj]
  split <;> simp_all
  apply ChipState.ext_get; intro m'; simp; split <;> simp_all

/-- With no line asserted nothing is written. -/
theorem setSelected_replicate (m v) : ∀ (n : Nat) (l : List ChipState), setSelected m v (List.replicate n false) l = l
  | 0, [] => rfl
  | 0, _ :: _ => rfl
  | _+1, [] => rfl
  | n+1, c :: l => by simp [List.replicate_succ, setSelected, setSelected_replicate m v n l]

/-- With one line asserted that chip is written. -/
theorem setSelected_one (m v) : ∀ (i n : Nat) (l : List ChipState), l.length = n → i < n →
    setSelected m v ((List.replicate n false).set i true) l = l.set i ((l.getD i .zero).set m v)
  | _, 0, _, _, h => by omega
  | _, n+1, [], h, _ => by simp at h
  | 0, n+1, c :: l, h, _ => by simp [List.replicate_succ, setSelected, setSelected_replicate]
  | i+1, n+1, c :: l, h, hi => by
    simp [List.replicate_succ, setSelected]
    rw [setSelected_one m v i n l (by simpa using h) (by omega)]; simp

/-- Writing the selected chips keeps the number of chips. -/
theorem setSelected_length (m v) : ∀ (bs : List Bool) (l : List ChipState), (setSelected m v bs l).length = l.length
  | _, [] => by simp [setSelected]
  | [], _ :: _ => rfl
  | b :: bs, c :: l => by simp [setSelected, setSelected_length m v bs l]

/-- An entry read after the selected chips are written. -/
theorem setSelected_getD (m v) : ∀ (bs : List Bool) (l : List ChipState) (i : Nat), i < l.length →
   (setSelected m v bs l).getD i .zero = if bs.getD i false then (l.getD i .zero).set m v else l.getD i .zero
  | _, [], _, h => by simp at h
  | [], c :: l, i, h => by simp [setSelected]
  | b :: bs, c :: l, 0, h => by simp [setSelected]
  | b :: bs, c :: l, i+1, h => by
    have := setSelected_getD m v bs l i (by simpa using h)
    simpa [setSelected] using this

/-- With no line asserted there is no asserted index. -/
theorem assertedFrom_replicate : ∀ n k, assertedFrom k (List.replicate n false) = []
  | 0, _ => rfl
  | n+1, k => by simp [List.replicate_succ, assertedFrom, assertedFrom_replicate n]

/-- With one line asserted its index is the only one. -/
theorem assertedFrom_one : ∀ (n i k : Nat), i < n → assertedFrom k ((List.replicate n false).set i true) = [k + i]
  | 0, _, _, h => by omega
  | n+1, 0, k, _ => by simp [List.replicate_succ, assertedFrom, assertedFrom_replicate]
  | n+1, i+1, k, h => by
    simp only [List.replicate_succ, List.set_cons_succ, assertedFrom, Bool.false_eq_true, if_false]
    rw [assertedFrom_one n i (k+1) (by omega)]
    simp; omega

/-- The range of a chip index (R92). -/
theorem hasChip_iff {c : Config} {k : Nat} : c.hasChip k = true ↔ 1 ≤ k ∧ k ≤ c.nChips := by simp [Config.hasChip]

/-- A chip index out of range (R92). -/
theorem hasChip_eq_false_iff {c : Config} {k : Nat} : c.hasChip k = false ↔ (k < 1 ∨ c.nChips < k) := by
  rw [← Bool.not_eq_true, hasChip_iff]; omega

/-- The range of a channel number (R50). -/
theorem channelValid_iff {k : Nat} : channelValid k = true ↔ 1 ≤ k ∧ k ≤ 8 := by simp [channelValid]

/-- A channel number out of range (R50). -/
theorem channelValid_eq_false_iff {k : Nat} : channelValid k = false ↔ (k < 1 ∨ 8 < k) := by
  rw [← Bool.not_eq_true, channelValid_iff]; omega

/-- The one-hot value of a channel (R89). -/
theorem getLsbD_channelBit (channel j : Nat) (h1 : 1 ≤ channel) (hj : j < 8) :
    (channelBit channel).getLsbD j = decide (j = channel - 1) := by
  unfold channelBit
  rw [BitVec.getLsbD_shiftLeft]
  simp only [hj, decide_true, Bool.true_and, BitVec.getLsbD_one]
  by_cases h : j = channel - 1
  · simp [h]
  · simp [h]; omega

end Sys2Proof.Machine
end

