-- ==== Sys2Proof/Laws/State.lean ====
section
/-! SUPPORT. What each named update of the state does to each field. -/

namespace Sys2Proof.Machine

/-! `State.give` -/

@[simp] theorem State.give_cfg (s : State) (r : Result) : (s.give r).cfg = s.cfg := rfl
@[simp] theorem State.give_cache (s : State) (r : Result) : (s.give r).cache = s.cache := rfl
@[simp] theorem State.give_initialized (s : State) (r : Result) : (s.give r).initialized = s.initialized := rfl
@[simp] theorem State.give_cs (s : State) (r : Result) : (s.give r).cs = s.cs := rfl
@[simp] theorem State.give_busy (s : State) (r : Result) : (s.give r).busy = s.busy := rfl
@[simp] theorem State.give_seq (s : State) (r : Result) : (s.give r).seq = s.seq := rfl
@[simp] theorem State.give_replies (s : State) (r : Result) : (s.give r).replies = s.replies := rfl
@[simp] theorem State.give_trace (s : State) (r : Result) : (s.give r).trace = s.trace := rfl
@[simp] theorem State.give_result (s : State) (r : Result) : (s.give r).result = some r := rfl
@[simp] theorem State.give_level (s : State) (r : Result) : (s.give r).level = s.level := rfl
@[simp] theorem State.give_env (s : State) (r : Result) : (s.give r).env = s.env := rfl

/-! `State.start` -/

@[simp] theorem State.start_cfg (s : State) : (s.start).cfg = s.cfg := rfl
@[simp] theorem State.start_cache (s : State) : (s.start).cache = s.cache := rfl
@[simp] theorem State.start_initialized (s : State) : (s.start).initialized = s.initialized := rfl
@[simp] theorem State.start_cs (s : State) : (s.start).cs = s.cs := rfl
@[simp] theorem State.start_busy (s : State) : (s.start).busy = s.busy := rfl
@[simp] theorem State.start_seq (s : State) : (s.start).seq = s.seq := rfl
@[simp] theorem State.start_replies (s : State) : (s.start).replies = [] := rfl
@[simp] theorem State.start_trace (s : State) : (s.start).trace = [] := rfl
@[simp] theorem State.start_result (s : State) : (s.start).result = s.result := rfl
@[simp] theorem State.start_level (s : State) : (s.start).level = s.level := rfl
@[simp] theorem State.start_env (s : State) : (s.start).env = s.env := rfl

/-! `State.finish` -/

@[simp] theorem State.finish_cfg (s : State) (e : Status) (k : Option Nat) : (s.finish e k).cfg = s.cfg := rfl
@[simp] theorem State.finish_cache (s : State) (e : Status) (k : Option Nat) : (s.finish e k).cache = s.cache := rfl
@[simp] theorem State.finish_initialized (s : State) (e : Status) (k : Option Nat) :
    (s.finish e k).initialized = s.initialized := rfl
@[simp] theorem State.finish_cs (s : State) (e : Status) (k : Option Nat) : (s.finish e k).cs = s.cs := rfl
@[simp] theorem State.finish_busy (s : State) (e : Status) (k : Option Nat) : (s.finish e k).busy = s.busy := rfl
@[simp] theorem State.finish_seq (s : State) (e : Status) (k : Option Nat) : (s.finish e k).seq = s.seq := rfl
@[simp] theorem State.finish_replies (s : State) (e : Status) (k : Option Nat) : (s.finish e k).replies = [] := rfl
@[simp] theorem State.finish_trace (s : State) (e : Status) (k : Option Nat) : (s.finish e k).trace = [] := rfl
@[simp] theorem State.finish_result (s : State) (e : Status) (k : Option Nat) :
    (s.finish e k).result = some { status := e, failIndex := k, replies := s.replies, trace := s.trace } := rfl
@[simp] theorem State.finish_level (s : State) (e : Status) (k : Option Nat) : (s.finish e k).level = s.level := rfl
@[simp] theorem State.finish_env (s : State) (e : Status) (k : Option Nat) : (s.finish e k).env = s.env := rfl

/-! `State.emit` -/

@[simp] theorem State.emit_cfg (s : State) (e : Event) : (s.emit e).cfg = s.cfg := rfl
@[simp] theorem State.emit_cache (s : State) (e : Event) : (s.emit e).cache = s.cache := rfl
@[simp] theorem State.emit_initialized (s : State) (e : Event) : (s.emit e).initialized = s.initialized := rfl
@[simp] theorem State.emit_cs (s : State) (e : Event) : (s.emit e).cs = s.cs := rfl
@[simp] theorem State.emit_busy (s : State) (e : Event) : (s.emit e).busy = s.busy := rfl
@[simp] theorem State.emit_seq (s : State) (e : Event) : (s.emit e).seq = s.seq := rfl
@[simp] theorem State.emit_replies (s : State) (e : Event) : (s.emit e).replies = s.replies := rfl
@[simp] theorem State.emit_trace (s : State) (e : Event) : (s.emit e).trace = s.trace ++ [e] := rfl
@[simp] theorem State.emit_result (s : State) (e : Event) : (s.emit e).result = s.result := rfl
@[simp] theorem State.emit_level (s : State) (e : Event) : (s.emit e).level = s.level := rfl
@[simp] theorem State.emit_env (s : State) (e : Event) : (s.emit e).env = s.env := rfl

/-! `State.tSelect` -/

@[simp] theorem State.tSelect_cfg (s : State) (k : Nat) : (s.tSelect k).cfg = s.cfg := rfl
@[simp] theorem State.tSelect_cache (s : State) (k : Nat) : (s.tSelect k).cache = s.cache := rfl
@[simp] theorem State.tSelect_initialized (s : State) (k : Nat) : (s.tSelect k).initialized = s.initialized := rfl
@[simp] theorem State.tSelect_cs (s : State) (k : Nat) : (s.tSelect k).cs = s.cs.set (k - 1) true := rfl
@[simp] theorem State.tSelect_busy (s : State) (k : Nat) : (s.tSelect k).busy = s.busy := rfl
@[simp] theorem State.tSelect_seq (s : State) (k : Nat) : (s.tSelect k).seq = s.seq := rfl
@[simp] theorem State.tSelect_replies (s : State) (k : Nat) : (s.tSelect k).replies = s.replies := rfl
@[simp] theorem State.tSelect_trace (s : State) (k : Nat) : (s.tSelect k).trace = s.trace ++ [.select k] := rfl
@[simp] theorem State.tSelect_result (s : State) (k : Nat) : (s.tSelect k).result = s.result := rfl
@[simp] theorem State.tSelect_level (s : State) (k : Nat) : (s.tSelect k).level = s.level := rfl
@[simp] theorem State.tSelect_env (s : State) (k : Nat) : (s.tSelect k).env = s.env := rfl

/-! `State.tDeselect` -/

@[simp] theorem State.tDeselect_cfg (s : State) (k : Nat) : (s.tDeselect k).cfg = s.cfg := rfl
@[simp] theorem State.tDeselect_cache (s : State) (k : Nat) : (s.tDeselect k).cache = s.cache := rfl
@[simp] theorem State.tDeselect_initialized (s : State) (k : Nat) : (s.tDeselect k).initialized = s.initialized := rfl
@[simp] theorem State.tDeselect_cs (s : State) (k : Nat) : (s.tDeselect k).cs = s.cs.set (k - 1) false := rfl
@[simp] theorem State.tDeselect_busy (s : State) (k : Nat) : (s.tDeselect k).busy = s.busy := rfl
@[simp] theorem State.tDeselect_seq (s : State) (k : Nat) : (s.tDeselect k).seq = s.seq := rfl
@[simp] theorem State.tDeselect_replies (s : State) (k : Nat) : (s.tDeselect k).replies = s.replies := rfl
@[simp] theorem State.tDeselect_trace (s : State) (k : Nat) : (s.tDeselect k).trace = s.trace ++ [.deselect k] := rfl
@[simp] theorem State.tDeselect_result (s : State) (k : Nat) : (s.tDeselect k).result = s.result := rfl
@[simp] theorem State.tDeselect_level (s : State) (k : Nat) : (s.tDeselect k).level = s.level := rfl
@[simp] theorem State.tDeselect_env (s : State) (k : Nat) : (s.tDeselect k).env = s.env := rfl

/-! `State.cacheSet` -/

@[simp] theorem State.cacheSet_cfg (s : State) (k : Nat) (m : Mode) (v : Mask) : (s.cacheSet k m v).cfg = s.cfg := rfl
@[simp] theorem State.cacheSet_cache (s : State) (k : Nat) (m : Mode) (v : Mask) :
    (s.cacheSet k m v).cache = setEntry s.cache k m v := rfl
@[simp] theorem State.cacheSet_initialized (s : State) (k : Nat) (m : Mode) (v : Mask) :
    (s.cacheSet k m v).initialized = s.initialized := rfl
@[simp] theorem State.cacheSet_cs (s : State) (k : Nat) (m : Mode) (v : Mask) : (s.cacheSet k m v).cs = s.cs := rfl
@[simp] theorem State.cacheSet_busy (s : State) (k : Nat) (m : Mode) (v : Mask) :
    (s.cacheSet k m v).busy = s.busy := rfl
@[simp] theorem State.cacheSet_seq (s : State) (k : Nat) (m : Mode) (v : Mask) : (s.cacheSet k m v).seq = s.seq := rfl
@[simp] theorem State.cacheSet_replies (s : State) (k : Nat) (m : Mode) (v : Mask) :
    (s.cacheSet k m v).replies = s.replies := rfl
@[simp] theorem State.cacheSet_trace (s : State) (k : Nat) (m : Mode) (v : Mask) :
    (s.cacheSet k m v).trace = s.trace := rfl
@[simp] theorem State.cacheSet_result (s : State) (k : Nat) (m : Mode) (v : Mask) :
    (s.cacheSet k m v).result = s.result := rfl
@[simp] theorem State.cacheSet_level (s : State) (k : Nat) (m : Mode) (v : Mask) :
    (s.cacheSet k m v).level = s.level := rfl
@[simp] theorem State.cacheSet_env (s : State) (k : Nat) (m : Mode) (v : Mask) : (s.cacheSet k m v).env = s.env := rfl

/-! `State.addReply` -/

@[simp] theorem State.addReply_cfg (s : State) (k : Nat) (r : Word) : (s.addReply k r).cfg = s.cfg := rfl
@[simp] theorem State.addReply_cache (s : State) (k : Nat) (r : Word) : (s.addReply k r).cache = s.cache := rfl
@[simp] theorem State.addReply_initialized (s : State) (k : Nat) (r : Word) :
    (s.addReply k r).initialized = s.initialized := rfl
@[simp] theorem State.addReply_cs (s : State) (k : Nat) (r : Word) : (s.addReply k r).cs = s.cs := rfl
@[simp] theorem State.addReply_busy (s : State) (k : Nat) (r : Word) : (s.addReply k r).busy = s.busy := rfl
@[simp] theorem State.addReply_seq (s : State) (k : Nat) (r : Word) : (s.addReply k r).seq = s.seq := rfl
@[simp] theorem State.addReply_replies (s : State) (k : Nat) (r : Word) :
    (s.addReply k r).replies = s.replies ++ [(k, frameDecode r)] := rfl
@[simp] theorem State.addReply_trace (s : State) (k : Nat) (r : Word) : (s.addReply k r).trace = s.trace := rfl
@[simp] theorem State.addReply_result (s : State) (k : Nat) (r : Word) : (s.addReply k r).result = s.result := rfl
@[simp] theorem State.addReply_level (s : State) (k : Nat) (r : Word) : (s.addReply k r).level = s.level := rfl
@[simp] theorem State.addReply_env (s : State) (k : Nat) (r : Word) : (s.addReply k r).env = s.env := rfl

/-! `State.chipsTake` -/

@[simp] theorem State.chipsTake_cfg (s : State) (m : Mode) (v : Mask) : (s.chipsTake m v).cfg = s.cfg := rfl
@[simp] theorem State.chipsTake_cache (s : State) (m : Mode) (v : Mask) : (s.chipsTake m v).cache = s.cache := rfl
@[simp] theorem State.chipsTake_initialized (s : State) (m : Mode) (v : Mask) :
    (s.chipsTake m v).initialized = s.initialized := rfl
@[simp] theorem State.chipsTake_cs (s : State) (m : Mode) (v : Mask) : (s.chipsTake m v).cs = s.cs := rfl
@[simp] theorem State.chipsTake_busy (s : State) (m : Mode) (v : Mask) : (s.chipsTake m v).busy = s.busy := rfl
@[simp] theorem State.chipsTake_seq (s : State) (m : Mode) (v : Mask) : (s.chipsTake m v).seq = s.seq := rfl
@[simp] theorem State.chipsTake_replies (s : State) (m : Mode) (v : Mask) :
    (s.chipsTake m v).replies = s.replies := rfl
@[simp] theorem State.chipsTake_trace (s : State) (m : Mode) (v : Mask) : (s.chipsTake m v).trace = s.trace := rfl
@[simp] theorem State.chipsTake_result (s : State) (m : Mode) (v : Mask) : (s.chipsTake m v).result = s.result := rfl
@[simp] theorem State.chipsTake_level (s : State) (m : Mode) (v : Mask) : (s.chipsTake m v).level = s.level := rfl
@[simp] theorem State.chipsTake_env (s : State) (m : Mode) (v : Mask) :
    (s.chipsTake m v).env = { s.env with periph := setSelected m v s.cs s.env.periph } := rfl

/-! `State.initialise` -/

@[simp] theorem State.initialise_cfg (s : State) : (s.initialise).cfg = s.cfg := rfl
@[simp] theorem State.initialise_cache (s : State) : (s.initialise).cache = List.replicate s.cfg.nChips .zero := rfl
@[simp] theorem State.initialise_initialized (s : State) : (s.initialise).initialized = true := rfl
@[simp] theorem State.initialise_cs (s : State) : (s.initialise).cs = List.replicate s.cfg.nChips false := rfl
@[simp] theorem State.initialise_busy (s : State) : (s.initialise).busy = s.busy := rfl
@[simp] theorem State.initialise_seq (s : State) : (s.initialise).seq = s.seq := rfl
@[simp] theorem State.initialise_replies (s : State) : (s.initialise).replies = s.replies := rfl
@[simp] theorem State.initialise_trace (s : State) : (s.initialise).trace = s.trace := rfl
@[simp] theorem State.initialise_result (s : State) : (s.initialise).result = s.result := rfl
@[simp] theorem State.initialise_level (s : State) : (s.initialise).level = s.level := rfl
@[simp] theorem State.initialise_env (s : State) : (s.initialise).env = s.env := rfl

/-! `State.take` -/

@[simp] theorem State.take_cfg (s : State) (rest : List Input) : (s.take rest).cfg = s.cfg := rfl
@[simp] theorem State.take_cache (s : State) (rest : List Input) : (s.take rest).cache = s.cache := rfl
@[simp] theorem State.take_initialized (s : State) (rest : List Input) :
    (s.take rest).initialized = s.initialized := rfl
@[simp] theorem State.take_cs (s : State) (rest : List Input) : (s.take rest).cs = s.cs := rfl
@[simp] theorem State.take_busy (s : State) (rest : List Input) : (s.take rest).busy = s.busy := rfl
@[simp] theorem State.take_seq (s : State) (rest : List Input) : (s.take rest).seq = s.seq := rfl
@[simp] theorem State.take_replies (s : State) (rest : List Input) : (s.take rest).replies = s.replies := rfl
@[simp] theorem State.take_trace (s : State) (rest : List Input) : (s.take rest).trace = s.trace := rfl
@[simp] theorem State.take_result (s : State) (rest : List Input) : (s.take rest).result = none := rfl
@[simp] theorem State.take_level (s : State) (rest : List Input) : (s.take rest).level = s.level := rfl
@[simp] theorem State.take_env (s : State) (rest : List Input) :
    (s.take rest).env = { s.env with inputs := rest } := rfl

/-! `State.clearResult` -/

@[simp] theorem State.clearResult_cfg (s : State) : (s.clearResult).cfg = s.cfg := rfl
@[simp] theorem State.clearResult_cache (s : State) : (s.clearResult).cache = s.cache := rfl
@[simp] theorem State.clearResult_initialized (s : State) : (s.clearResult).initialized = s.initialized := rfl
@[simp] theorem State.clearResult_cs (s : State) : (s.clearResult).cs = s.cs := rfl
@[simp] theorem State.clearResult_busy (s : State) : (s.clearResult).busy = s.busy := rfl
@[simp] theorem State.clearResult_seq (s : State) : (s.clearResult).seq = s.seq := rfl
@[simp] theorem State.clearResult_replies (s : State) : (s.clearResult).replies = s.replies := rfl
@[simp] theorem State.clearResult_trace (s : State) : (s.clearResult).trace = s.trace := rfl
@[simp] theorem State.clearResult_result (s : State) : (s.clearResult).result = none := rfl
@[simp] theorem State.clearResult_level (s : State) : (s.clearResult).level = s.level := rfl
@[simp] theorem State.clearResult_env (s : State) : (s.clearResult).env = s.env := rfl

/-! `State.goto` -/

@[simp] theorem State.goto_cfg (s : State) (p : Phase) : (s.goto p).cfg = s.cfg := rfl
@[simp] theorem State.goto_cache (s : State) (p : Phase) : (s.goto p).cache = s.cache := rfl
@[simp] theorem State.goto_initialized (s : State) (p : Phase) : (s.goto p).initialized = s.initialized := rfl
@[simp] theorem State.goto_cs (s : State) (p : Phase) : (s.goto p).cs = s.cs := rfl
@[simp] theorem State.goto_busy (s : State) (p : Phase) : (s.goto p).busy = s.busy := rfl
@[simp] theorem State.goto_seq (s : State) (p : Phase) : (s.goto p).seq = { s.seq with phase := p } := rfl
@[simp] theorem State.goto_replies (s : State) (p : Phase) : (s.goto p).replies = s.replies := rfl
@[simp] theorem State.goto_trace (s : State) (p : Phase) : (s.goto p).trace = s.trace := rfl
@[simp] theorem State.goto_result (s : State) (p : Phase) : (s.goto p).result = s.result := rfl
@[simp] theorem State.goto_level (s : State) (p : Phase) : (s.goto p).level = s.level := rfl
@[simp] theorem State.goto_env (s : State) (p : Phase) : (s.goto p).env = s.env := rfl

/-! `State.toDone` -/

@[simp] theorem State.toDone_cfg (s : State) (e : Status) (k : Option Nat) : (s.toDone e k).cfg = s.cfg := rfl
@[simp] theorem State.toDone_cache (s : State) (e : Status) (k : Option Nat) : (s.toDone e k).cache = s.cache := rfl
@[simp] theorem State.toDone_initialized (s : State) (e : Status) (k : Option Nat) :
    (s.toDone e k).initialized = s.initialized := rfl
@[simp] theorem State.toDone_cs (s : State) (e : Status) (k : Option Nat) : (s.toDone e k).cs = s.cs := rfl
@[simp] theorem State.toDone_busy (s : State) (e : Status) (k : Option Nat) : (s.toDone e k).busy = s.busy := rfl
@[simp] theorem State.toDone_seq (s : State) (e : Status) (k : Option Nat) :
    (s.toDone e k).seq = { s.seq with phase := .done, pendStatus := e, pendFail := k } := rfl
@[simp] theorem State.toDone_replies (s : State) (e : Status) (k : Option Nat) :
    (s.toDone e k).replies = s.replies := rfl
@[simp] theorem State.toDone_trace (s : State) (e : Status) (k : Option Nat) : (s.toDone e k).trace = s.trace := rfl
@[simp] theorem State.toDone_result (s : State) (e : Status) (k : Option Nat) :
    (s.toDone e k).result = s.result := rfl
@[simp] theorem State.toDone_level (s : State) (e : Status) (k : Option Nat) : (s.toDone e k).level = s.level := rfl
@[simp] theorem State.toDone_env (s : State) (e : Status) (k : Option Nat) : (s.toDone e k).env = s.env := rfl

/-! `State.begin` -/

@[simp] theorem State.begin_cfg (s : State) (q : Sequencer) : (s.begin q).cfg = s.cfg := rfl
@[simp] theorem State.begin_cache (s : State) (q : Sequencer) : (s.begin q).cache = s.cache := rfl
@[simp] theorem State.begin_initialized (s : State) (q : Sequencer) : (s.begin q).initialized = s.initialized := rfl
@[simp] theorem State.begin_cs (s : State) (q : Sequencer) : (s.begin q).cs = s.cs := rfl
@[simp] theorem State.begin_busy (s : State) (q : Sequencer) : (s.begin q).busy = true := rfl
@[simp] theorem State.begin_seq (s : State) (q : Sequencer) : (s.begin q).seq = q := rfl
@[simp] theorem State.begin_replies (s : State) (q : Sequencer) : (s.begin q).replies = [] := rfl
@[simp] theorem State.begin_trace (s : State) (q : Sequencer) : (s.begin q).trace = [] := rfl
@[simp] theorem State.begin_result (s : State) (q : Sequencer) : (s.begin q).result = s.result := rfl
@[simp] theorem State.begin_level (s : State) (q : Sequencer) : (s.begin q).level = s.level := rfl
@[simp] theorem State.begin_env (s : State) (q : Sequencer) : (s.begin q).env = s.env := rfl

/-! `State.dropInit` -/

@[simp] theorem State.dropInit_cfg (s : State) : s.dropInit.cfg = s.cfg := rfl
@[simp] theorem State.dropInit_cache (s : State) : s.dropInit.cache = s.cache := rfl
@[simp] theorem State.dropInit_initialized (s : State) : s.dropInit.initialized = s.initialized := rfl
@[simp] theorem State.dropInit_cs (s : State) : s.dropInit.cs = s.cs := rfl
@[simp] theorem State.dropInit_busy (s : State) : s.dropInit.busy = s.busy := rfl
@[simp] theorem State.dropInit_seq (s : State) : s.dropInit.seq = s.seq := rfl
@[simp] theorem State.dropInit_replies (s : State) : s.dropInit.replies = s.replies := rfl
@[simp] theorem State.dropInit_trace (s : State) : s.dropInit.trace = s.trace := rfl
@[simp] theorem State.dropInit_result (s : State) : s.dropInit.result = s.result := rfl
@[simp] theorem State.dropInit_level (s : State) : s.dropInit.level = s.level := rfl
@[simp] theorem State.dropInit_env (s : State) : s.dropInit.env = s.env.dropInit := rfl
@[simp] theorem Env.dropInit_inputs (e : Env) : e.dropInit.inputs = e.inputs := by
  unfold Env.dropInit; split <;> rfl
@[simp] theorem Env.dropInit_hung (e : Env) : e.dropInit.hung = e.hung := by
  unfold Env.dropInit; split <;> rfl
@[simp] theorem Env.dropInit_periph (e : Env) : e.dropInit.periph = e.periph := by
  unfold Env.dropInit; split <;> rfl
@[simp] theorem Env.dropInit_transferAnswers (e : Env) : e.dropInit.transferAnswers = e.transferAnswers := by
  unfold Env.dropInit; split <;> rfl

/-! `State.dropTransfer` -/

@[simp] theorem State.dropTransfer_cfg (s : State) : s.dropTransfer.cfg = s.cfg := rfl
@[simp] theorem State.dropTransfer_cache (s : State) : s.dropTransfer.cache = s.cache := rfl
@[simp] theorem State.dropTransfer_initialized (s : State) : s.dropTransfer.initialized = s.initialized := rfl
@[simp] theorem State.dropTransfer_cs (s : State) : s.dropTransfer.cs = s.cs := rfl
@[simp] theorem State.dropTransfer_busy (s : State) : s.dropTransfer.busy = s.busy := rfl
@[simp] theorem State.dropTransfer_seq (s : State) : s.dropTransfer.seq = s.seq := rfl
@[simp] theorem State.dropTransfer_replies (s : State) : s.dropTransfer.replies = s.replies := rfl
@[simp] theorem State.dropTransfer_trace (s : State) : s.dropTransfer.trace = s.trace := rfl
@[simp] theorem State.dropTransfer_result (s : State) : s.dropTransfer.result = s.result := rfl
@[simp] theorem State.dropTransfer_level (s : State) : s.dropTransfer.level = s.level := rfl
@[simp] theorem State.dropTransfer_env (s : State) : s.dropTransfer.env = s.env.dropTransfer := rfl
@[simp] theorem Env.dropTransfer_inputs (e : Env) : e.dropTransfer.inputs = e.inputs := by
  unfold Env.dropTransfer; split <;> rfl
@[simp] theorem Env.dropTransfer_hung (e : Env) : e.dropTransfer.hung = e.hung := by
  unfold Env.dropTransfer; split <;> rfl
@[simp] theorem Env.dropTransfer_periph (e : Env) : e.dropTransfer.periph = e.periph := by
  unfold Env.dropTransfer; split <;> rfl
@[simp] theorem Env.dropTransfer_initAnswers (e : Env) : e.dropTransfer.initAnswers = e.initAnswers := by
  unfold Env.dropTransfer; split <;> rfl

end Sys2Proof.Machine
end

