-- ==== Sys2Proof/Laws/Ops.lean ====
section
/-! SUPPORT. What each shared operation can do, said once: the Transport calls, the transaction, the checks, the two
ways a set operation ends. -/

namespace Sys2Proof.Machine

/-- What a transaction needs of the state it starts in: legal parameters, one entry for each chip, no line asserted. -/
structure State.Quiet (s : State) : Prop where
  legal : s.cfg.wf = true
  cacheLength : s.cache.length = s.cfg.nChips
  periphLength : s.env.periph.length = s.cfg.nChips
  lines : s.cs = List.replicate s.cfg.nChips false

/-- Between operations the phase is `IDLE` (R28). -/
theorem State.Inv.phase_idle {s : State} (h : s.Inv) (hb : s.busy = false) : s.seq.phase = .idle := by
  have := h.busyPhase; rw [hb] at this; simpa using this

/-- Between operations a transaction can start. -/
theorem State.Inv.quiet {s : State} (h : s.Inv) (hb : s.busy = false) : s.Quiet := by
  have hp : s.seq.phase = .idle := by have := h.busyPhase; rw [hb] at this; simpa using this
  exact ⟨h.legal, h.cacheLength, h.periphLength, by rw [h.lines, State.properLines, hp]; rfl⟩

/-- So it can once an operation has started. -/
theorem State.Inv.start_quiet {s : State} (h : s.Inv) (hb : s.busy = false) : s.start.Quiet :=
  ⟨(h.quiet hb).1, (h.quiet hb).2, (h.quiet hb).3, (h.quiet hb).4⟩

/-- Using up an answer leaves the chips alone. -/
theorem dropTransfer_periph (e : Env) : e.dropTransfer.periph = e.periph := by unfold Env.dropTransfer; split <;> rfl

/-- Using up an answer changes the answers only. -/
theorem dropTransfer_shape (e : Env) :
    e.dropTransfer = { e with transferAnswers := e.dropTransfer.transferAnswers, draws := e.dropTransfer.draws } := by
  unfold Env.dropTransfer; split <;> rfl

/-- `T_TRANSFER` uses up an answer, appends one event, and may change the chips (R186). -/
theorem tTransfer_shape (s : State) (w) :
    (s.tTransfer w).2 = { s with trace := s.trace ++ [.transfer w s.nextTransfer], env :=
      { s.env.dropTransfer with periph := (s.tTransfer w).2.env.periph } } ∧
        (s.tTransfer w).2.env.periph.length = s.env.periph.length := by
  unfold State.tTransfer State.busReceives
  cases s.nextTransfer with
  | fail => simp [State.emit, State.dropTransfer]; exact dropTransfer_shape _
  | ok r =>
    simp only; split
    · simp [State.emit, State.dropTransfer, State.chipsTake, setSelected_length]
    · simp [State.emit, State.dropTransfer]; exact dropTransfer_shape _

/-- `T_TRANSFER` takes no input and keeps the Transport alive. -/
theorem tTransfer_env (s : State) (w) :
    (s.tTransfer w).2.env.hung = s.env.hung ∧ (s.tTransfer w).2.env.inputs = s.env.inputs ∧
      (s.tTransfer w).2.busy = s.busy ∧ (s.tTransfer w).2.result = s.result := by
  have h := (tTransfer_shape s w).1
  rw [h]; refine ⟨?_, ?_, rfl, rfl⟩ <;> simp

/-- `T_TRANSFER` appends its event (R160). -/
theorem tTransfer_trace (s : State) (w) : (s.tTransfer w).2.trace = s.trace ++ [.transfer w s.nextTransfer] := by
  rw [(tTransfer_shape s w).1]

/-- A transaction answered `ok(r)` (R161). -/
theorem State.transact_ok {s : State} (hq : s.Quiet) {k : Nat} (hk : s.cfg.hasChip k = true) {r : Word}
    (h : s.nextTransfer = .ok r) (m : Mode) (v : Mask) :
    s.transact k m v = (true, { s.dropTransfer with
      cache := setEntry s.cache k m v, env := { s.env.dropTransfer with periph := setEntry s.env.periph k m v },
      replies := s.replies ++ [(k, frameDecode r)],
      trace := s.trace ++ transactionEvents k (wireWord (s.cfg.code m) v) (.ok r) }) := by
  have h' : (s.tSelect k).nextTransfer = .ok r := h
  have hk' := hasChip_iff.1 hk
  have hcf := commandFields_wireWord hq.legal m v
  have hsel := setSelected_one m v (k-1) s.cfg.nChips s.env.periph hq.periphLength (by omega)
  unfold State.transact State.tTransfer
  simp only [h']
  simp only [State.busReceives, State.emit_cfg, State.dropTransfer_cfg, State.tSelect_cfg, hcf]
  simp [State.tSelect, State.emit, State.dropTransfer, State.chipsTake, State.tDeselect, State.cacheSet,
    State.addReply, hq.lines, hsel, transactionEvents, setEntry, chipEntry]

/-- A transaction answered `fail` (R161). -/
theorem State.transact_fail {s : State} (hq : s.Quiet) {k : Nat} (h : s.nextTransfer = .fail) (m : Mode) (v : Mask) :
    s.transact k m v = (false, { s.dropTransfer with
      trace := s.trace ++ transactionEvents k (wireWord (s.cfg.code m) v) .fail }) := by
  have h' : (s.tSelect k).nextTransfer = .fail := h
  unfold State.transact State.tTransfer
  simp only [h']
  simp [State.tSelect, State.emit, State.dropTransfer, State.tDeselect, hq.lines, transactionEvents]

/-- What no transaction changes. -/
theorem transact_env (s : State) (k m v) : let t := (s.transact k m v).2; t.env.hung = s.env.hung ∧
    t.env.inputs = s.env.inputs ∧ t.busy = s.busy ∧ t.result = s.result ∧ t.cfg = s.cfg ∧ t.seq = s.seq := by
  have h := tTransfer_env (s.tSelect k) (wireWord (s.cfg.code m) v)
  have h' := (tTransfer_shape (s.tSelect k) (wireWord (s.cfg.code m) v)).1
  have e1 : ((s.tSelect k).tTransfer (wireWord (s.cfg.code m) v)).2.cfg = s.cfg := by rw [h']; rfl
  have e2 : ((s.tSelect k).tTransfer (wireWord (s.cfg.code m) v)).2.seq = s.seq := by rw [h']; rfl
  unfold State.transact
  simp only
  cases ((s.tSelect k).tTransfer (wireWord (s.cfg.code m) v)).1 <;>
    exact ⟨h.1, h.2.1, h.2.2.1, h.2.2.2, e1, e2⟩

/-- A transaction succeeds with its transfer (R161). -/
theorem transact_fst (s : State) (k m v) :
    (s.transact k m v).1 = (match s.nextTransfer with | .ok _ => true | .fail => false) := by
  unfold State.transact
  have : ((s.tSelect k).tTransfer (wireWord (s.cfg.code m) v)).1 = s.nextTransfer := rfl
  simp only [this]; cases s.nextTransfer <;> rfl

/-- The three events of a transaction (R161). -/
theorem transact_trace (s : State) (k m v) :
    (s.transact k m v).2.trace = s.trace ++ transactionEvents k (wireWord (s.cfg.code m) v) s.nextTransfer := by
  have h := tTransfer_trace (s.tSelect k) (wireWord (s.cfg.code m) v)
  have a : ((s.tSelect k).tTransfer (wireWord (s.cfg.code m) v)).1 = s.nextTransfer := rfl
  have b : (s.tSelect k).nextTransfer = s.nextTransfer := rfl
  have c : (s.tSelect k).trace = s.trace ++ [.select k] := rfl
  unfold State.transact
  simp only [a]
  rw [b, c] at h
  cases hn : s.nextTransfer
  · show (((s.tSelect k).tTransfer (wireWord (s.cfg.code m) v)).2).trace ++ [.deselect k] = _
    rw [h, hn]; simp [transactionEvents]
  · show (((s.tSelect k).tTransfer (wireWord (s.cfg.code m) v)).2).trace ++ [.deselect k] = _
    rw [h, hn]; simp [transactionEvents]

/-- An idle block accepts an operation (R28). -/
theorem whenIdle_of_idle {s : State} {b} (h : s.busy = false) : s.whenIdle b = b := by simp [State.whenIdle, h]

/-- What the checks raise is a validation error (R209). -/
theorem validate_isValidation {s : State} {a b c e} (h : s.validate a b c = some e) :
    e.isValidation = true ∧ e ≠ .ok ∧ e ≠ .transportFailure := by
  unfold State.validate at h
  split at h; · cases h; simp [Status.isValidation]
  split at h; · cases h; simp [Status.isValidation]
  split at h; · cases h; simp [Status.isValidation]
  split at h; · cases h; simp [Status.isValidation]
  cases h

/-- A check that the request has no operand for is not made (R201 to R203). -/
theorem validate_ne {s : State} {a k c e} (h : s.validate a k c = some e) :
    (a = none → e ≠ .channelOutOfRange) ∧ (k = none → e ≠ .unknownChip) ∧ (c = none → e ≠ .invalidMode) := by
  unfold State.validate at h
  split at h; · cases h; simp
  split at h; · cases h; rename_i q; refine ⟨?_, by simp, by simp⟩; rintro rfl; simp at q
  split at h; · cases h; rename_i q; refine ⟨by simp, ?_, by simp⟩; rintro rfl; simp at q
  split at h; · cases h; rename_i q; refine ⟨by simp, by simp, ?_⟩; rintro rfl; simp at q
  cases h

/-- Passed checks: initialised (R205). -/
theorem initialized_of_validate {s : State} {a k c} (h : s.validate a k c = none) : s.initialized = true := by
  unfold State.validate at h
  split at h; · cases h
  simp_all

/-- Passed checks: the channel (R201). -/
theorem channelValid_of_validate {s : State} {c k m} (h : s.validate (some c) k m = none) : channelValid c = true := by
  unfold State.validate at h
  split at h; · cases h
  split at h; · cases h
  simp_all

/-- Passed checks: the chip (R203). -/
theorem hasChip_of_validate {s : State} {a k c} (h : s.validate a (some k) c = none) :
    s.initialized = true ∧ s.cfg.hasChip k = true := by
  unfold State.validate at h
  split at h; · cases h
  split at h; · cases h
  split at h; · cases h
  simp_all

/-- The record of a transaction by itself. -/
theorem transactAlone_result (s : State) (k m v) :
    ∃ r, (s.transactAlone k m v).result = some r ∧ (r.status = .ok ∨ r.status = .transportFailure) := by
  unfold State.transactAlone; simp only; split <;> exact ⟨_, rfl, by simp⟩

/-- The record of a set operation that passed its checks. -/
theorem sendMask_result {s t : State} {k m v} (h : s.sendMask k m v = .next t) :
    ∃ r, t.result = some r ∧ (r.status = .ok ∨ r.status = .transportFailure) := by
  unfold State.sendMask at h
  split at h
  · cases h; exact ⟨_, rfl, by simp⟩
  · split at h; · cases h
    cases h; exact transactAlone_result ..

end Sys2Proof.Machine
end

