-- ==== Sys2Proof/Laws/Chain.lean ====
section
/-! SUPPORT. What the loop of a broadcast can do, whatever the Transport answers (R166 to R171). -/

namespace Sys2Proof.Machine

/-- `s` after a transaction answered `ok(r)` inside an operation (R161). -/
def State.okAfter (s : State) (k : Nat) (m : Mode) (v : Mask) (r : Word) : State := { s.dropTransfer with
      cache := setEntry s.cache k m v, env := { s.env.dropTransfer with periph := setEntry s.env.periph k m v },
      replies := s.replies ++ [(k, frameDecode r)],
      trace := s.trace ++ transactionEvents k (wireWord (s.cfg.code m) v) (.ok r) }

/-- Another transaction can follow. -/
theorem okAfter_quiet {s : State} (h : s.Quiet) (k m v r) : (s.okAfter k m v r).Quiet :=
  ⟨h.1, by simp [State.okAfter, h.2], by simp [State.okAfter, h.3], h.4⟩

/-- The masks after such a transaction. -/
theorem maskAt_okAfter {s : State} (hq : s.Quiet) {k : Nat} (hk : s.cfg.hasChip k = true) (m v r) {j : Nat}
    (hj : 1 ≤ j) (m') : (s.okAfter k m v r).maskAt j m' = if j = k ∧ m' = m then v else s.maskAt j m' := by
  have hk' := hasChip_iff.1 hk
  show (chipEntry (setEntry s.cache k m v) j).get m' = _
  rw [chipEntry_setEntry m v hk'.1 (by rw [hq.cacheLength]; exact hk'.2) hj]
  by_cases h1 : j = k
  · subst h1; by_cases h2 : m' = m <;> simp [h2, State.maskAt]
  · simp [h1, State.maskAt]

/-- What no broadcast changes. -/
theorem broadcastLoop_env (m v) : ∀ n k (s : State), let t := (broadcastLoop m v n k s).2; t.env.hung = s.env.hung ∧
    t.env.inputs = s.env.inputs ∧ t.busy = s.busy ∧ t.result = s.result ∧ t.cfg = s.cfg ∧ t.seq = s.seq
  | 0, _, _ => ⟨rfl, rfl, rfl, rfl, rfl, rfl⟩
  | n+1, k, s => by
    simp only [broadcastLoop]
    have env := transact_env s k m v
    split
    · exact broadcastLoop_env m v n (k+1) s
    · split
      · have h := broadcastLoop_env m v n (k+1) (s.transact k m v).2
        exact ⟨h.1.trans env.1, h.2.1.trans env.2.1, h.2.2.1.trans env.2.2.1, h.2.2.2.1.trans env.2.2.2.1,
          h.2.2.2.2.1.trans env.2.2.2.2.1, h.2.2.2.2.2.trans env.2.2.2.2.2⟩
      · exact env

/-- The loop over chips `k` to `k + n - 1`: what it leaves alone, its events, and the two ways it ends. -/
theorem broadcastLoop_spec (m v) : ∀ (n k : Nat) (s : State), s.Quiet → 1 ≤ k → k + n = s.cfg.nChips + 1 →
   ∃ o t es, broadcastLoop m v n k s = (o, t) ∧ t.Quiet ∧
     t = { s with cache := t.cache, env := t.env, replies := t.replies, trace := s.trace ++ es } ∧
     t.env = { s.env with periph := t.env.periph, transferAnswers := t.env.transferAnswers, draws := t.env.draws } ∧
     (∀ j m', 1 ≤ j → (j < k ∨ m' ≠ m) → t.maskAt j m' = s.maskAt j m') ∧
     (s.env.periph = s.cache → t.env.periph = t.cache) ∧
     (∀ lo, lo < k → transactionsAbove s.cfg.nChips (wireWord (s.cfg.code m) v) lo es) ∧
     (t.cache ≠ s.cache → ∃ w a, Event.transfer w (.ok a) ∈ es) ∧
     ((o = none ∧ ∀ j, k ≤ j → j < k + n → t.maskAt j m = v) ∨
      (∃ f, o = some f ∧ k ≤ f ∧ f < k + n ∧ s.maskAt f m ≠ v ∧ (∀ j, k ≤ j → j < f → t.maskAt j m = v) ∧
        (∀ j m', f ≤ j → t.maskAt j m' = s.maskAt j m')))
  | 0, k, s, hq, h1, h2 => by
    refine ⟨none, s, [], rfl, hq, by simp, rfl, by simp, fun h => h, by simp [transactionsAbove], by simp,
      .inl ⟨rfl, by omega⟩⟩
  | n+1, k, s, hq, h1, h2 => by
    unfold broadcastLoop
    have hk : s.cfg.hasChip k = true := hasChip_iff.2 ⟨h1, by omega⟩
    by_cases h : s.maskAt k m = v
    · simp only [h, if_true]
      obtain ⟨o, t, es, g1, g2, g3, g4, g5, g6, g7, g8, g9⟩ :=
        broadcastLoop_spec m v n (k+1) s hq (by omega) (by omega)
      refine ⟨o, t, es, g1, g2, g3, g4, ?_, g6, fun lo hlo => g7 lo (by omega), g8, ?_⟩
      · intro j m' hj hjm; exact g5 j m' hj (hjm.imp (fun h => by omega) id)
      · rcases g9 with ⟨ho, ht⟩ | ⟨f, f1, f2, f3, f4, f5, f6⟩
        · left; refine ⟨ho, fun j a b => ?_⟩
          by_cases hj : j = k
          · subst hj; rw [g5 j m h1 (.inl (by omega)), h]
          · exact ht j (by omega) (by omega)
        · right; refine ⟨f, f1, by omega, by omega, f4, fun j a b => ?_, f6⟩
          by_cases hj : j = k
          · subst hj; rw [g5 j m h1 (.inl (by omega)), h]
          · exact f5 j (by omega) (by omega)
    · simp only [h, if_false]
      cases hn : s.nextTransfer with
      | fail =>
        rw [State.transact_fail hq hn]
        refine ⟨some k, _, transactionEvents k (wireWord (s.cfg.code m) v) .fail, rfl,
          ⟨hq.1, hq.2, by simp [hq.3], hq.4⟩, rfl, ?_, ?_, ?_, ?_, ?_, .inr ⟨k, rfl, le_refl _, by omega, h, ?_, ?_⟩⟩
        · simp [State.dropTransfer, Env.dropTransfer]; split <;> simp
        · intros; rfl
        · intro he; simpa using he
        · intro lo hlo; simp [transactionEvents, transactionsAbove, hlo]; exact (hasChip_iff.1 hk).2
        · intro hc; exact absurd rfl hc
        · intro j a b; omega
        · intros; rfl
      | ok r =>
        have htr : s.transact k m v = (true, s.okAfter k m v r) := State.transact_ok hq hk hn m v
        simp only [htr, if_true]
        obtain ⟨o, t, es, g1, g2, g3, g4, g5, g6, g7, g8, g9⟩ :=
          broadcastLoop_spec m v n (k+1) (s.okAfter k m v r) (okAfter_quiet hq k m v r) (by omega)
            (by simp [State.okAfter]; omega)
        have hm := fun j m' hj => maskAt_okAfter hq hk m v r (j := j) hj m'
        refine ⟨o, t, transactionEvents k (wireWord (s.cfg.code m) v) (.ok r) ++ es, g1, g2, ?_, ?_, ?_, ?_, ?_, ?_,
          ?_⟩
        · rw [g3]; simp [State.okAfter, State.dropTransfer]
        · rw [g4]; simp [State.okAfter, Env.dropTransfer]; split <;> simp
        · intro j m' hj hjm; rw [g5 j m' hj (hjm.imp (fun h => by omega) id), hm j m' hj, if_neg]
          rintro ⟨rfl, rfl⟩
          rcases hjm with h | h
          · omega
          · exact h rfl
        · intro hp; apply g6; simp [State.okAfter, hp]
        · intro lo hlo
          have := g7 k (by omega)
          simp [transactionEvents, transactionsAbove, hlo]; exact ⟨(hasChip_iff.1 hk).2, this⟩
        · intro _; exact ⟨_, r, by simp [transactionEvents]; left; rfl⟩
        · rcases g9 with ⟨ho, ht⟩ | ⟨f, f1, f2, f3, f4, f5, f6⟩
          · left; refine ⟨ho, fun j a b => ?_⟩
            by_cases hj : j = k
            · subst hj; rw [g5 j m h1 (.inl (by omega)), hm j m h1]; simp
            · exact ht j (by omega) (by omega)
          · right; refine ⟨f, f1, by omega, by omega, ?_, fun j a b => ?_, ?_⟩
            · rw [hm f m (by omega), if_neg (by omega)] at f4; exact f4
            · by_cases hj : j = k
              · subst hj; rw [g5 j m h1 (.inl (by omega)), hm j m h1]; simp
              · exact f5 j (by omega) (by omega)
            · intro j m' hj; rw [f6 j m' hj, hm j m' (by omega), if_neg (by omega)]

end Sys2Proof.Machine
end

