-- ==== Sys2Proof/Laws/Config.lean ====
section
/-! SUPPORT. The configurations that `Config.ofSeeds` gives are exactly the legal ones, so that the configuration of
which nothing is known at reset is any legal one (D1, D2). -/

namespace Sys2Proof.Laws.Config

/-- Every configuration given by seeds is legal (R85, D2). -/
theorem ofSeeds_wf (extra : Nat) (p : ModeCode) (d : Fin 15) (e : Fin 14) : (Config.ofSeeds extra p d e).wf = true :=
    by
  have h : ∀ (p : ModeCode) (d : Fin 15) (e : Fin 14), (Config.ofSeeds 0 p d e).wf = true := by decide +kernel
  have := h p d e
  simp only [Config.wf, Config.ofSeeds] at this ⊢
  simpa using this

/-- Every legal configuration is given by seeds. -/
theorem ofSeeds_surjective (c : Config) (h : c.wf = true) : ∃ extra p d e, Config.ofSeeds extra p d e = c := by
  have h1 : ∀ a : BitVec 4, a ≠ 0#4 → ∃ d : Fin 15, BitVec.ofNat 4 (d.val + 1) = a := by decide
  have h2 : ∀ (d : Fin 15) (b : BitVec 4), b ≠ 0#4 → b ≠ BitVec.ofNat 4 (d.val + 1) →
      ∃ e : Fin 14, BitVec.ofNat 4 (if e.val < d.val then e.val + 1 else e.val + 2) = b := by decide +kernel
  obtain ⟨n, p, dd, oo⟩ := c
  simp only [Config.wf, Bool.and_eq_true, decide_eq_true_eq] at h
  obtain ⟨⟨⟨hn, hpd⟩, hpo⟩, hdo⟩ := h
  obtain ⟨d, hd⟩ := h1 (dd - p) (fun q => hpd (sub_eq_zero.mp q).symm)
  obtain ⟨e, he⟩ := h2 d (oo - p) (fun q => hpo (sub_eq_zero.mp q).symm)
    (by rw [hd]; intro q; exact hdo (sub_left_inj.mp q).symm)
  refine ⟨n - 1, p, d, e, ?_⟩
  simp only [Config.ofSeeds, hd, he, add_sub_cancel, Config.mk.injEq, and_true]
  omega

end Sys2Proof.Laws.Config
end

