-- ==== Sys2Proof/Laws/Step.lean ====
section
/-! SUPPORT. What a step can do by the kind of its input: the invariant under what any step
does, and the ports that are served at once. -/

namespace Sys2Proof.Machine

/-- The invariant does not speak of the record. -/
theorem clearResult_inv {s : State} (h : s.Inv) : s.clearResult.Inv :=
  ⟨h.1, h.2, h.3, h.4, h.5, h.6, h.7, h.8, h.9, h.10, h.11, h.12⟩

/-- The invariant does not speak of the inputs. -/
theorem take_inv {s : State} (h : s.Inv) (rest) : (s.take rest).Inv :=
  ⟨h.1, h.2, h.3, h.4, h.5, h.6, h.7, h.8, h.9, h.10, h.11, h.12⟩

/-- The invariant does not speak of the record. -/
theorem give_inv {s : State} (h : s.Inv) (r) : (s.give r).Inv :=
  ⟨h.1, h.2, h.3, h.4, h.5, h.6, h.7, h.8, h.9, h.10, h.11, h.12⟩

/-- The invariant holds of the chips whatever they take. -/
theorem chipsTake_inv {s : State} (h : s.Inv) (m v) : (s.chipsTake m v).Inv :=
  ⟨h.1, h.2, by simp [State.chipsTake, setSelected_length, h.3], h.4, h.5, h.6, h.7, h.8, h.9, h.10, h.11, h.12⟩

/-- The state after reset meets the invariant (R36). -/
theorem init_inv {c : Config} (hc : c.wf = true) : (State.init c).Inv := by
  constructor <;> simp_all [State.init, State.properLines, Sequencer.reset, Phase.lineUp, Phase.onChip, Phase.pending]

/-- So does the state that the reset input leaves (R230). -/
theorem assertReset_inv {s : State} (h : s.Inv) : s.assertReset.Inv := by
  have := init_inv h.legal
  exact ⟨this.1, this.2, h.3, this.4, this.5, this.6, this.7, this.8, this.9, this.10, this.11, this.12⟩

/-- Events of the environment keep the invariant. -/
theorem disturb_inv {s : State} (h : s.Inv) (e) : (s.disturb e).Inv := by
  cases e with
  | reset => exact assertReset_inv h
  | transportHangs => exact ⟨h.1, h.2, h.3, h.4, h.5, h.6, h.7, h.8, h.9, h.10, h.11, h.12⟩
  | chipChanges k regs =>
    unfold State.disturb; simp only; split
    · exact ⟨h.1, h.2, by simp [h.3], h.4, h.5, h.6, h.7, h.8, h.9, h.10, h.11, h.12⟩
    · exact h

/-- What serving a port other than the host's can bring. -/
inductive ServeOut (s : State) (p : Port) : State → Prop
  | took (w m v) (h : p = .busWord w) : ServeOut s p (s.chipsTake m v)
  | gave (r) (ht : r.trace = []) : ServeOut s p (s.give r)
  | same : ServeOut s p s

/-- Serving such a port brings nothing else. -/
theorem serve_cases {s t : State} {p : Port} (hp : ∀ r, p ≠ .request r) (h : s.serve p = .next t) : ServeOut s p t := by
  unfold State.serve at h
  cases p with
  | request r => exact absurd rfl (hp r)
  | busWord w =>
    simp only [decodeInput, decodeWire, decodeLogical] at h
    cases hc : commandFields s.cfg (rev16 w) with
    | ok mv =>
      simp only [hc] at h
      have : t = s.chipsTake mv.1 mv.2 := by
        obtain ⟨m, v⟩ := mv
        cases m <;> simp [writeInstr, exec, execWrProtect, execWrDiag, execWrOutput] at h <;> exact h.symm
      rw [this]; exact .took w _ _ rfl
    | error e => simp [hc] at h; subst h; exact .same
  | replyWord w => simp [decodeInput, exec, execReply] at h; subst h; exact .gave _ rfl
  | encodePort a b =>
    simp [decodeInput, exec, execEncode] at h
    split at h <;> cases h
    · exact .gave _ rfl
    · exact .gave _ rfl
  | decodePort w => simp [decodeInput, exec, execDecode] at h; subst h; exact .gave _ rfl
  | pwmPort c => simp [decodeInput, exec, execEnablePwm] at h; subst h; exact .same

/-- A request selects a host operation or a reserved selector (R94). -/
theorem decodeRequest_cases (r : Request) :
    isHostOperation (decodeRequest r) = true ∨ ∃ op, decodeRequest r = .reservedOp op := by
  unfold decodeRequest; split <;> simp [isHostOperation]

/-- A busy block is in a phase other than `IDLE` (R28). -/
theorem State.Inv.phase_ne_idle {s : State} (h : s.Inv) (hb : s.busy = true) : s.seq.phase ≠ .idle := by
  have := h.busyPhase; rw [hb] at this; simpa using this.symm

/-- `NEXT` keeps the invariant. -/
theorem nextChip_inv {s : State} (h1 : s.cfg.wf = true) (h2 : s.cache.length = s.cfg.nChips)
    (h3 : s.env.periph.length = s.cfg.nChips)
   (h4 : s.cs = List.replicate s.cfg.nChips false) (h5 : s.busy = true) (h7 : s.initialized = true)
     (h9 : s.cfg.hasChip s.seq.cur = true)
   (h10 : ∀ c e, s.seq.pendChan = some (c, e) → channelValid c = true ∧ s.seq.pendAll = false) : s.nextChip.Inv := by
  unfold State.nextChip
  split
  · rename_i hl
    have hl' : s.seq.cur + 1 ≤ s.cfg.nChips := by
      unfold State.lastChip at hl; split at hl <;> omega
    constructor <;> simp_all [State.properLines, Phase.onChip, Phase.pending, Phase.lineUp, hasChip_iff]
  · constructor <;> simp_all [State.properLines, Phase.onChip, Phase.pending, Phase.lineUp, State.toDone]

/-- A phase that waits for a call of a hung Transport goes on waiting (R196, R252). -/
theorem advance_of_hung {s : State} (h : s.env.hung = true) (hp : s.seq.phase = .busInit ∨ s.seq.phase = .select ∨
    s.seq.phase = .transfer ∨ s.seq.phase = .deselect) : advance s = s := by
  rcases hp with hp | hp | hp | hp <;> simp [advance, hp, h]

/-- With a Transport that answers, every phase acts (R176). -/
theorem advance_of_answering {s : State} (h : s.env.hung = false) : advance s = (match s.seq.phase with
    | .idle => s
    | .busInit => s.phaseBusInit
    | .check => s.phaseCheck
    | .select => s.phaseSelect
    | .transfer => s.phaseTransfer
    | .deselect => s.phaseDeselect
    | .update => s.phaseUpdate
    | .done => s.phaseDone) := by
  unfold advance; split <;> simp_all

end Sys2Proof.Machine
end

