-- ==== Sys2Proof/Tests/Slice0.lean ====
section
/-! SUPPORT. Tests: ill-formed terms, decoding of words written out from the spec, one step on small states with the
results of spec/95_test_vectors.md, and for each statement a witness that its hypotheses can be met. The codes are REF
or ALT (R85), which are examples. -/

namespace Sys2Proof.Tests

open Sys2Proof Sys2Proof.Machine

/-! ### Small states -/

/-- `n` chips under REF, initialised, every mask 0x00. -/
def ready (n : Nat) : State := { State.init (Config.ref n) with initialized := true }

/-- The state with the given answers of coming transfers. -/
def answering (as : List TransferAnswer) (s : State) : State :=
  { s with env := { s.env with transferAnswers := as } }

/-- The state with the given answers of coming initialisations. -/
def initAnswering (as : List InitAnswer) (s : State) : State := { s with env := { s.env with initAnswers := as } }

/-- The state with one mask of cache and chip set. -/
def holding (k : Nat) (m : Mode) (v : Mask) (s : State) : State :=
  { s with cache := setEntry s.cache k m v, env := { s.env with periph := setEntry s.env.periph k m v } }

/-- The state with the given inputs. -/
def given (is : List Input) (s : State) : State := { s with env := { s.env with inputs := is } }

/-- The state with a hung Transport. -/
def hanging (s : State) : State := { s with env := { s.env with hung := true } }

/-- The state at the event level. -/
def stepwise (s : State) : State := { s with level := .event }

/-- Three chips, a broadcast of 0xA5 in DIAG in flight at chip 3, before its transfer (P5, step 9). -/
def flying : State :=
  { holding 1 .diag 0xA5#8 (holding 2 .diag 0xA5#8 (ready 3)) with
    busy := true
    level := .event
    cs := [false, false, true]
    seq := ⟨.transfer, 3, .diag, 0xA5#8, 0xA5C5#16, true, .ok 0#16, none, .ok, none⟩
    replies := [(1, 0#8)]
    trace := transactionEvents 1 0xA5C5#16 (.ok 0#16) ++ [.select 3] }

/-- The next state of an outcome. -/
def next? : Host.Outcome State Fault Refusal → Option State
  | .next s => some s
  | .fault _ => none
  | .refused _ => none

/-- The record of an outcome. -/
def record (o : Host.Outcome State Fault Refusal) : Option Result := (next? o).bind (·.result)

/-- One mask of the cache after an outcome. -/
def maskAfter (o : Host.Outcome State Fault Refusal) (k : Nat) (m : Mode) : Option Mask :=
  (next? o).map fun s => s.maskAt k m

/-- The fault of an outcome. -/
def faultOf : Host.Outcome State Fault Refusal → Option Fault
  | .next _ => none
  | .fault f => some f
  | .refused _ => none

/-! ### What WellFormed refuses -/

theorem test_wf_refuses_no_chip : Config.wf ⟨0, 0xA#4, 0x3#4, 0xC#4⟩ = false := by decide
theorem test_wf_refuses_protect_eq_diag : Config.wf ⟨1, 0x3#4, 0x3#4, 0xC#4⟩ = false := by decide
theorem test_wf_refuses_protect_eq_output : Config.wf ⟨1, 0xC#4, 0x3#4, 0xC#4⟩ = false := by decide
theorem test_wf_refuses_diag_eq_output : Config.wf ⟨1, 0xA#4, 0xC#4, 0xC#4⟩ = false := by decide
theorem test_wf_accepts_ref_alt : Config.wf (.ref 1) = true ∧ Config.wf (.alt 5) = true := by decide
theorem test_wf_refuses_low_reserved_selector : Instr.wf (.ref 2) (.reservedOp 0x7#4) = false := by decide
theorem test_wf_refuses_cache_set_chip :
    Instr.wf (.ref 2) (.cacheSet 0 .diag 0#8) = false ∧ Instr.wf (.ref 2) (.cacheSet 3 .diag 0#8) = false := by decide
theorem test_wf_refuses_transact_chip :
    Instr.wf (.ref 2) (.transact 0 .diag 0#8) = false ∧ Instr.wf (.ref 2) (.transact 3 .diag 0#8) = false := by decide
theorem test_wf_refuses_select_chip :
    Instr.wf (.ref 2) (.tSelect 0) = false ∧ Instr.wf (.ref 2) (.tSelect 3) = false := by decide
theorem test_wf_refuses_deselect_chip :
    Instr.wf (.ref 2) (.tDeselect 0) = false ∧ Instr.wf (.ref 2) (.tDeselect 3) = false := by decide

/-! ### Decoding (R94, R95, R97; words of 95_test_vectors.md section 2.2) -/

theorem test_decode_init : decodeRequest { op := 0b0000#4, chip := 9, mask := 0xFF#8 } = .init := by decide
theorem test_decode_set_protection :
    decodeRequest { op := 0b0001#4, chip := 1, channel := 3, enabled := true } = .setProtection 1 3 true := by decide
theorem test_decode_set_diagnostics :
    decodeRequest { op := 0b0010#4, chip := 1, channel := 8 } = .setDiagnostics 1 8 false := by decide
theorem test_decode_set_output :
    decodeRequest { op := 0b0011#4, chip := 1, channel := 5, enabled := true } = .setOutput 1 5 true := by decide
theorem test_decode_set_multiple_pins :
    decodeRequest { op := 0b0100#4, chip := 1, mode := 0xC#4, mask := 0xFF#8 } = .setMultiplePins 1 0xC#4 0xFF#8 := by
  decide
theorem test_decode_targeted :
    decodeRequest { op := 0b0101#4, chip := 2, mode := 0x3#4, mask := 0x0F#8 } = .targeted 2 0x3#4 0x0F#8 := by decide
theorem test_decode_broadcast :
    decodeRequest { op := 0b0110#4, mode := 0xC#4, mask := 0x0F#8 } = .broadcast 0xC#4 0x0F#8 := by decide
theorem test_decode_cache_get :
    decodeRequest { op := 0b0111#4, chip := 2, mode := 0xA#4 } = .cacheGet 2 0xA#4 := by decide
theorem test_decode_reserved :
    decodeRequest { op := 0b1000#4 } = .reservedOp 8#4 ∧ decodeRequest { op := 0b1111#4 } = .reservedOp 15#4 := by decide
theorem test_decode_wr_protect :
    decodeWire (.ref 1) 0b0010000001010101#16 = .ok (.wrProtect 0x04#8) ∧
    decodeWire (.alt 1) 0b0000100010000101#16 = .ok (.wrProtect 0x10#8) := by decide
theorem test_decode_wr_diag :
    decodeWire (.ref 1) 0b1111111011000101#16 = .ok (.wrDiag 0x7F#8) ∧
    decodeWire (.alt 1) 0b1000000001000101#16 = .ok (.wrDiag 0x01#8) := by decide
theorem test_decode_wr_output :
    decodeWire (.ref 1) 0b0000100000110101#16 = .ok (.wrOutput 0x10#8) ∧
    decodeWire (.alt 1) 0b0000100011000101#16 = .ok (.wrOutput 0x10#8) := by decide
theorem test_decode_refuses_wrong_address :
    decodeWire (.ref 1) 0b0000100000110111#16 = .error .wrongAddress := by decide
theorem test_decode_refuses_unknown_mode :
    decodeWire (.ref 1) 0b0000100000000101#16 = .error .unknownModeCode := by decide
theorem test_decode_reply : decodeInput (.ref 1) (.replyWord 0x0800#16) = .ok (.reply 0x0800#16) := by decide
theorem test_decode_functions_and_pwm :
    decodeInput (.ref 1) (.encodePort 0xC#4 0x10#8) = .ok (.encode 0xC#4 0x10#8) ∧
    decodeInput (.ref 1) (.decodePort 0x0835#16) = .ok (.decode 0x0835#16) ∧
    decodeInput (.ref 1) (.pwmPort 3) = .ok (.enablePwm 3) := by decide
theorem test_encode_has_no_form :
    encode (.ref 1) (.rev16 0#16) = none ∧ encode (.ref 1) (.cacheSet 1 .diag 0#8) = none ∧
    encode (.ref 1) (.transact 1 .diag 0#8) = none ∧ encode (.ref 1) .tInit = none ∧
    encode (.ref 1) (.tSelect 1) = none ∧ encode (.ref 1) (.tDeselect 1) = none ∧
    encode (.ref 1) (.tTransfer 0#16) = none := by decide
theorem test_table_rows :
    decodeTableWord 8 0x7 = some (.cacheGet 0 0#4) ∧ decodeTableWord 8 0x8 = some (.reservedOp 8#4) ∧
    decodeTableWord 8 0x10 = none ∧ decodeTableWord 16 0x0010 = some (.reply 0x0800#16) := by decide
theorem test_table_command_word :
    tablePort (.ref 1) 16 0xAC10 = .busWord 0x0835#16 ∧ tablePort (.alt 1) 16 0xAC10 = .replyWord 0x0835#16 := by decide

/-! ### One step (95_test_vectors.md sections 2.1 to 2.9) -/

theorem test_rev16 : record (exec (.rev16 0xA5C3#16) (ready 1)) = some { status := .ok, word := some 0xC3A5#16 } := by
  decide
theorem test_encode :
    record (exec (.encode 0x3#4 0x0F#8) (State.init (.ref 1))) = some { status := .ok, word := some 0xF0C5#16 } := by
  decide
theorem test_encode_invalid_mode :
    record (exec (.encode 0xB#4 0x00#8) (ready 1)) = some { status := .invalidMode } := by decide
theorem test_decode_fn :
    record (exec (.decode 0x1234#16) (State.init (.ref 1))) = some { status := .ok, mask := some 0x48#8 } := by decide

theorem test_cache_get_priority :
    record (exec (.cacheGet 3 0x7#4) (ready 2)) = some { status := .unknownChip } ∧
    record (exec (.cacheGet 0 0x7#4) (State.init (.ref 2))) = some { status := .notInitialized } ∧
    record (exec (.cacheGet 2 0x7#4) (ready 2)) = some { status := .invalidMode } := by decide
theorem test_cache_get :
    record (exec (.cacheGet 2 0xA#4) (holding 2 .protect 0x80#8 (ready 2))) =
      some { status := .ok, mask := some 0x80#8 } := by decide
theorem test_cache_set :
    maskAfter (exec (.cacheSet 1 .output 0x10#8) (ready 2)) 1 .output = some 0x10#8 ∧
    maskAfter (exec (.cacheSet 1 .output 0x10#8) (ready 2)) 2 .output = some 0x00#8 := by decide
theorem test_cache_set_outside :
    faultOf (exec (.cacheSet 3 .output 0x10#8) (ready 2)) = some .noSuchChip := by decide

/-- V-S11, first half. -/
theorem test_set_protection :
    record (exec (.setProtection 1 3 true) (answering [.ok 0#16] (ready 2))) =
      some { status := .ok, replies := [(1, 0#8)]
             trace := [.select 1, .transfer 0x2055#16 (.ok 0#16), .deselect 1] } := by decide +kernel
/-- V-S14. -/
theorem test_set_protection_fails :
    record (exec (.setProtection 2 8 true) (answering [.fail] (ready 2))) =
      some { status := .transportFailure, failIndex := some 2
             trace := [.select 2, .transfer 0x0155#16 .fail, .deselect 2] } := by decide +kernel
/-- V-S16. -/
theorem test_set_diagnostics :
    maskAfter (exec (.setDiagnostics 1 8 false) (answering [.ok 0#16] (holding 1 .diag 0xFF#8 (ready 2)))) 1 .diag =
      some 0x7F#8 ∧
    record (exec (.setDiagnostics 1 8 false) (answering [.ok 0#16] (holding 1 .diag 0xFF#8 (ready 2)))) =
      some { status := .ok, replies := [(1, 0#8)]
             trace := [.select 1, .transfer 0xFEC5#16 (.ok 0#16), .deselect 1] } := by decide +kernel
/-- V-S7 to V-S10, V-S13, V-S17. -/
theorem test_set_output_checks :
    record (exec (.setOutput 1 0 true) (ready 2)) = some { status := .channelOutOfRange } ∧
    record (exec (.setOutput 3 9 true) (ready 2)) = some { status := .channelOutOfRange } ∧
    record (exec (.setOutput 3 8 true) (ready 2)) = some { status := .unknownChip } ∧
    record (exec (.setOutput 1 4 false) (ready 2)) = some { status := .ok } ∧
    record (exec (.setOutput 9 0 true) (State.init (.ref 2))) = some { status := .notInitialized } := by decide
/-- V-S6. -/
theorem test_set_output :
    record (exec (.setOutput 1 5 false) (answering [.ok 0xFFFF#16] (holding 1 .output 0x10#8 (ready 2)))) =
      some { status := .ok, replies := [(1, 0xFF#8)]
             trace := [.select 1, .transfer 0x0035#16 (.ok 0xFFFF#16), .deselect 1] } := by decide +kernel

/-- V-M1. -/
theorem test_set_multiple_pins :
    record (exec (.setMultiplePins 1 0xC#4 0xFF#8) (answering [.ok 0#16] (holding 1 .output 0x10#8 (ready 3)))) =
      some { status := .ok, replies := [(1, 0#8)]
             trace := [.select 1, .transfer 0xFF35#16 (.ok 0#16), .deselect 1] } := by decide +kernel
/-- V-M6, V-M7, V-M2. -/
theorem test_set_multiple_pins_checks :
    record (exec (.setMultiplePins 4 0x7#4 0x01#8) (ready 3)) = some { status := .unknownChip } ∧
    record (exec (.setMultiplePins 2 0x7#4 0x01#8) (ready 3)) = some { status := .invalidMode } ∧
    record (exec (.setMultiplePins 1 0xC#4 0xFF#8) (holding 1 .output 0xFF#8 (ready 3))) =
      some { status := .ok } := by decide
/-- V-T1. -/
theorem test_targeted :
    (next? (exec (.targeted 2 0x3#4 0x0F#8) (answering [.ok 0#16] (ready 3)))).map (·.cache) =
      some [⟨0#8, 0#8, 0#8⟩, ⟨0#8, 0x0F#8, 0#8⟩, ⟨0#8, 0#8, 0#8⟩] ∧
    record (exec (.targeted 2 0x3#4 0x0F#8) (ready 1)) = some { status := .unknownChip } := by decide +kernel
/-- V-B2. -/
theorem test_broadcast_passes_over :
    record (exec (.broadcast 0x3#4 0xA5#8) (answering [.ok 0#16, .ok 0#16] (holding 2 .diag 0xA5#8 (ready 3)))) =
      some { status := .ok, replies := [(1, 0#8), (3, 0#8)]
             trace := [.select 1, .transfer 0xA5C5#16 (.ok 0#16), .deselect 1,
                       .select 3, .transfer 0xA5C5#16 (.ok 0#16), .deselect 3] } := by decide +kernel
/-- V-B4. -/
theorem test_broadcast_stops :
    record (exec (.broadcast 0xC#4 0x0F#8) (answering [.ok 0x8000#16, .ok 0#16, .fail] (ready 5))) =
      some { status := .transportFailure, failIndex := some 3, replies := [(1, 0x01#8), (2, 0#8)]
             trace := [.select 1, .transfer 0xF035#16 (.ok 0x8000#16), .deselect 1,
                       .select 2, .transfer 0xF035#16 (.ok 0#16), .deselect 2,
                       .select 3, .transfer 0xF035#16 .fail, .deselect 3] } := by decide +kernel
/-- R161's example. -/
theorem test_transact :
    record (exec (.transact 1 .output 0x10#8) (answering [.ok 0#16] (ready 1))) =
      some { status := .ok, replies := [(1, 0#8)]
             trace := [.select 1, .transfer 0x0835#16 (.ok 0#16), .deselect 1] } := by decide +kernel

/-- Section 2.9, rows 1 and 2. -/
theorem test_init :
    record (exec .init (initAnswering [.ok] (State.init (.ref 2)))) = some { status := .ok, trace := [.init .ok] } ∧
    record (exec .init (initAnswering [.fail] (State.init (.ref 2)))) =
      some { status := .transportFailure, trace := [.init .fail] } := by decide
/-- Section 2.9, row 4: the mask is still there. -/
theorem test_init_again :
    maskAfter (exec .init (holding 1 .output 0x10#8 (ready 1))) 1 .output = some 0x10#8 ∧
    record (exec .init (holding 1 .output 0x10#8 (ready 1))) = some { status := .ok } := by decide
theorem test_t_init : (next? (exec .tInit (initAnswering [.fail] (ready 1)))).map (·.trace) = some [.init .fail] := by
  decide
theorem test_t_select :
    (next? (exec (.tSelect 2) (ready 3))).map (·.cs) = some [false, true, false] := by decide
theorem test_t_deselect :
    (next? (exec (.tDeselect 3) flying)).map (·.cs) = some [false, false, false] := by decide
/-- D31's rule for a command word, and for a word that is none. -/
theorem test_t_transfer :
    (next? (exec (.tTransfer 0xA5C5#16) (answering [.ok 0#16] flying))).map (·.env.periph[2]?) =
      some (some ⟨0#8, 0xA5#8, 0#8⟩) ∧
    (next? (exec (.tTransfer 0xA5C5#16) (answering [.fail] flying))).map (·.env.periph[2]?) =
      some (some ⟨0#8, 0#8, 0#8⟩) ∧
    (next? (exec (.tTransfer 0xA5C4#16) (answering [.ok 0#16] flying))).map (·.env.periph[2]?) =
      some (some ⟨0#8, 0#8, 0#8⟩) := by decide
theorem test_wr_words :
    (next? (exec (.wrProtect 0x12#8) flying)).map (·.env.periph[2]?) = some (some ⟨0x12#8, 0#8, 0#8⟩) ∧
    (next? (exec (.wrDiag 0x12#8) flying)).map (·.env.periph[2]?) = some (some ⟨0#8, 0x12#8, 0#8⟩) ∧
    (next? (exec (.wrOutput 0x12#8) flying)).map (·.env.periph[2]?) = some (some ⟨0#8, 0#8, 0x12#8⟩) ∧
    (next? (exec (.wrOutput 0x12#8) flying)).map (·.env.periph[0]?) = some (some ⟨0#8, 0xA5#8, 0#8⟩) := by decide
theorem test_reply :
    record (exec (.reply 0x0100#16) flying) = some { status := .ok, replies := [(3, 0x80#8)] } ∧
    record (exec (.reply 0x0100#16) (ready 3)) = some { status := .ok } := by decide
theorem test_reserved_op : next? (exec (.reservedOp 0x9#4) (ready 1)) = some (ready 1) := by decide
theorem test_enable_pwm : next? (exec (.enablePwm 1) (ready 1)) = some (ready 1) := by decide

/-- P5, step 9 of the walk: the transfer, with line 3 alone asserted. -/
theorem test_step_transfer_phase :
    (next? (step (answering [.ok 0#16] flying))).map (fun s => (s.seq.phase, s.seq.pendAns, s.cs)) =
      some (.deselect, .ok 0#16, [false, false, true]) := by decide
/-- P5, step 0: the request is accepted. -/
theorem test_step_accepts :
    (next? (step (given [.port (.request { op := 6#4, mode := 0x3#4, mask := 0xA5#8 })] (stepwise (ready 3))))).map
      (fun s => (s.busy, s.seq.phase, s.seq.cur, s.seq.pendAll)) = some (true, .check, 1, true) := by decide
/-- U6: a call of any kind that never returns. -/
theorem test_step_hung :
    (next? (step (hanging flying))).map (·.seq) = some flying.seq ∧
    (next? (step (hanging (flying.goto .select)))).map (·.seq) = some (flying.goto .select).seq ∧
    (next? (step (hanging (flying.goto .deselect)))).map (·.seq) = some (flying.goto .deselect).seq := by decide
theorem test_select_hung :
    faultOf (exec (.tSelect 3) (hanging (ready 3))) = some .transportHung ∧
    faultOf (exec (.tSelect 4) (hanging (ready 3))) = some .noSuchChip ∧
    faultOf (exec (.tDeselect 3) (hanging flying)) = some .transportHung := by decide
theorem test_step_reset :
    (next? (step (given [.env .reset] flying))).map (fun s => (s.busy, s.initialized, s.cs)) =
      some (false, false, [false, false, false]) := by decide
theorem test_with_fetch_word :
    record (step ((ready 2).withFetchWord 8 0x1)) = some { status := .channelOutOfRange } := by decide
theorem test_reset_runs_init_selector :
    record (step (State.reset.withFetchWord 8 0x7)) = some { status := .notInitialized } := by decide

/-! ### Witnesses: for each statement with hypotheses, operands and states that meet them -/

theorem ready_inv {n : Nat} (h : 1 ≤ n) : (ready n).Inv := by
  have hc : (Config.ref n).wf = true := by simp [Config.wf, Config.ref, h]
  have := init_inv hc
  exact ⟨this.1, this.2, this.3, this.4, this.5, this.6, nofun, nofun, nofun,
    nofun, nofun, nofun⟩

theorem init_ref_inv {n : Nat} (h : 1 ≤ n) : (State.init (Config.ref n)).Inv :=
  init_inv (by simp [Config.wf, Config.ref, h])

theorem answering_inv {s : State} (h : s.Inv) (as) : (answering as s).Inv :=
  ⟨h.1, h.2, h.3, h.4, h.5, h.6, h.7, h.8, h.9, h.10, h.11, h.12⟩

theorem initAnswering_inv {s : State} (h : s.Inv) (as) : (initAnswering as s).Inv :=
  ⟨h.1, h.2, h.3, h.4, h.5, h.6, h.7, h.8, h.9, h.10, h.11, h.12⟩

theorem given_inv {s : State} (h : s.Inv) (is) : (given is s).Inv :=
  ⟨h.1, h.2, h.3, h.4, h.5, h.6, h.7, h.8, h.9, h.10, h.11, h.12⟩

theorem stepwise_inv {s : State} (h : s.Inv) : (stepwise s).Inv :=
  ⟨h.1, h.2, h.3, h.4, h.5, h.6, h.7, h.8, h.9, h.10, h.11, h.12⟩

theorem holding_inv {n : Nat} (h : 1 ≤ n) (k m v) : (holding k m v (ready n)).Inv := by
  have := ready_inv h
  exact ⟨this.1, by simp [holding, setEntry, this.2], by simp [holding, setEntry, this.3], this.4, this.5, this.6,
    nofun, nofun, nofun, nofun, nofun,
    nofun⟩

theorem flying_inv : flying.Inv where
  legal := by decide
  cacheLength := by decide
  periphLength := by decide
  lines := by decide
  busyPhase := by decide
  idleEmpty := by decide
  zeroBefore := by decide
  busInitBefore := by decide
  chipValid := by decide
  channelLatched := nofun
  wordLatched := by decide
  answeredOk := by decide

/-- A record shows a next state. -/
theorem next_of_record {o : Host.Outcome State Fault Refusal} {r : Result} (h : record o = some r) :
    ∃ t, o = .next t ∧ t.result = some r := by
  cases o with
  | next t => exact ⟨t, rfl, h⟩
  | fault f => exact nomatch h
  | refused f => exact nomatch h

/-- An outcome of which something shows is a next state. -/
theorem next_of_some {α : Type} {o : Host.Outcome State Fault Refusal} {f : State → α} {a : α}
    (h : (next? o).map f = some a) : ∃ t, o = .next t ∧ f t = a := by
  cases o with
  | next t => exact ⟨t, rfl, Option.some.inj h⟩
  | fault f => exact nomatch h
  | refused f => exact nomatch h

theorem asksFor_whole {s : State} {chip : Nat} {m : Mode} {mode : ModeCode} (v : Mask) (h : s.initialized = true)
    (hk : s.cfg.hasChip chip = true) (hm : s.cfg.modeOf mode = some m) :
    AsksFor s (.setMultiplePins chip mode v) chip m v ∧ AsksFor s (.targeted chip mode v) chip m v :=
  ⟨⟨h, hk, .inr ⟨mode, hm, .inl rfl⟩⟩, ⟨h, hk, .inr ⟨mode, hm, .inr rfl⟩⟩⟩

theorem asksFor_channel {s : State} {chip channel : Nat} (m : Mode) (enabled : Bool) (h : s.initialized = true)
    (hk : s.cfg.hasChip chip = true) (hc : channelValid channel = true) :
    AsksFor s (channelOp m chip channel enabled) chip m (candidate (s.maskAt chip m) channel enabled) :=
  ⟨h, hk, .inl ⟨channel, enabled, hc, rfl, rfl⟩⟩

/-- Chip 2 of three is asked to change, and the transfer is answered ok. -/
theorem asksFor_set : AsksFor (answering [.ok 0#16] (ready 3)) (.targeted 2 0x3#4 0x0F#8) 2 .diag 0x0F#8 :=
  (asksFor_whole _ rfl (by decide) (by decide)).2

theorem record_set : ∃ t, exec (.targeted 2 0x3#4 0x0F#8) (answering [.ok 0#16] (ready 3)) = .next t ∧
    t.result = some { status := .ok, replies := [(2, 0#8)]
                      trace := [.select 2, .transfer 0xF0C5#16 (.ok 0#16), .deselect 2] } :=
  next_of_record (by decide +kernel)

theorem record_set_fails : ∃ t, exec (.targeted 2 0x3#4 0x0F#8) (answering [.fail] (ready 3)) = .next t ∧
    t.result = some { status := .transportFailure, failIndex := some 2
                      trace := [.select 2, .transfer 0xF0C5#16 .fail, .deselect 2] } :=
  next_of_record (by decide +kernel)

theorem witness_bits : (15 : Nat) < 16 ∧ (7 : Nat) < 8 ∧ (3 : Nat) < 4 := by decide
/-- EncodeGivesTheWireWord: a recognised and an unrecognised code. -/
theorem witness_encode :
    (0xC#4 = (ready 1).cfg.codeProtect ∨ 0xC#4 = (ready 1).cfg.codeDiag ∨ 0xC#4 = (ready 1).cfg.codeOutput) ∧
    ¬(0x7#4 = (ready 1).cfg.codeProtect ∨ 0x7#4 = (ready 1).cfg.codeDiag ∨ 0x7#4 = (ready 1).cfg.codeOutput) := by
  decide
theorem witness_encode_injective :
    (Config.ref 1).wf = true ∧ frameEncode (.ref 1) 0xC#4 0x10#8 = some 0x0835#16 := by decide
/-- ModeOfInvertsCode and WireWordsHaveOneMeaning: legal parameters. -/
theorem witness_legal : (Config.ref 1).wf = true ∧ (Config.alt 5).wf = true := by decide
theorem witness_decode_undoes_encode :
    (Config.ref 1).wf = true ∧ (Instr.reservedOp 0x8#4).wf (.ref 1) = true ∧
    encode (.ref 1) (.reservedOp 0x8#4) = some (.request { op := 0x8#4 }) ∧ (Instr.wrOutput 0x10#8).wf (.ref 1) = true ∧
    encode (.ref 1) (.wrOutput 0x10#8) = some (.busWord 0x0835#16) := by decide
/-- UnreadRequestFieldsAreIgnored: a BROADCAST that differs in the chip and channel fields. -/
theorem witness_unread :
    let r : Request := { op := 6#4, mode := 0xC#4, mask := 1#8 }
    let r' : Request := { op := 6#4, mode := 0xC#4, mask := 1#8, chip := 7, channel := 9, enabled := true }
    r.op = r'.op ∧ (r.op ∈ [1#4, 2#4, 3#4, 4#4, 5#4, 7#4] → r.chip = r'.chip) ∧
    (r.op ∈ [1#4, 2#4, 3#4] → r.channel = r'.channel ∧ r.enabled = r'.enabled) ∧
    (r.op ∈ [4#4, 5#4, 6#4, 7#4] → r.mode = r'.mode) ∧ (r.op ∈ [4#4, 5#4, 6#4] → r.mask = r'.mask) := by decide
/-- StepRunsTheDecodedInstruction: a request at either level, a word on another port, nothing presented. -/
theorem witness_step_runs :
    let s := given [.port (.request { op := 7#4 })] (ready 1)
    let u := given [.port (.decodePort 0x0835#16)] flying
    (s.env.inputs = .port (.request { op := 7#4 }) :: [] ∧ s.busy = false ∧ s.level = .operation) ∧
    ((stepwise s).env.inputs = .port (.request { op := 7#4 }) :: [] ∧ (stepwise s).busy = false ∧
      (stepwise s).level = .event) ∧
    (u.env.inputs = .port (.decodePort 0x0835#16) :: [] ∧ (∀ r, Port.decodePort 0x0835#16 ≠ .request r) ∧
      decodeInput u.cfg (.decodePort 0x0835#16) = .ok (.decode 0x0835#16)) ∧
    ((ready 1).env.inputs = [] ∧ (ready 1).busy = false) :=
  ⟨⟨rfl, rfl, rfl⟩, ⟨rfl, rfl, rfl⟩, ⟨rfl, nofun, rfl⟩, rfl, rfl⟩
theorem witness_placed_word :
    decodeInput (ready 1).cfg (tablePort (ready 1).cfg 8 0xF) = .ok (.reservedOp 0xF#4) ∧
    decodeInput (ready 1).cfg (tablePort (ready 1).cfg 16 0xAC10) = .ok (.wrOutput 0x10#8) ∧
    decodeInput (ready 1).cfg (tablePort (ready 1).cfg 16 0xFFFF) = .ok (.reply 0xFFFF#16) ∧
    ((ready 1).busy = false ∧ (ready 1).level = .operation ∧ (ready 1).seq.phase = .idle) := by decide +kernel
theorem witness_busy :
    flying.busy = true ∧ isHostOperation .init = true ∧
    (given [.port (.request { op := 0#4 })] flying).env.inputs = .port (.request { op := 0#4 }) :: [] := by decide
/-- CacheGetReturnsTheCachedMask: each clause, the chip at 0, 1, N and N + 1. -/
theorem witness_cache_get :
    (State.init (.ref 2)).busy = false ∧ (State.init (.ref 2)).initialized = false ∧ (ready 2).busy = false ∧
    (ready 2).initialized = true ∧ (0 < 1 ∨ (ready 2).cfg.nChips < 0) ∧ (3 < 1 ∨ (ready 2).cfg.nChips < 3) ∧
    (1 ≤ 1 ∧ 1 ≤ (ready 2).cfg.nChips) ∧ (1 ≤ 2 ∧ 2 ≤ (ready 2).cfg.nChips) ∧ (ready 2).cfg.modeOf 0x7#4 = none ∧
    (ready 2).cfg.modeOf 0xA#4 = some .protect := by decide
/-- CacheSetWritesOneMask and BusWordsWriteTheSelectedChips: the first and the last chip, and another mask. -/
theorem witness_cache_set :
    (ready 2).cache.length = (ready 2).cfg.nChips ∧ (ready 2).env.periph.length = (ready 2).cfg.nChips ∧
    (1 ≤ 1 ∧ 1 ≤ (ready 2).cfg.nChips) ∧ (1 ≤ 2 ∧ 2 ≤ (ready 2).cfg.nChips) ∧
    ((2, Mode.diag) ≠ (1, Mode.diag)) ∧ ((1, Mode.output) ≠ (1, Mode.diag)) := by decide
theorem witness_outside_the_chain :
    (0 < 1 ∨ (ready 2).cfg.nChips < 0) ∧ (3 < 1 ∨ (ready 2).cfg.nChips < 3) := by decide
/-- ChannelOperationsFollowTheCommonBody: each clause, the channel at 0, 1, 8 and 9, the chip at 0, 1, N and N + 1. -/
theorem witness_channel_operations :
    (State.init (.ref 2)).Inv ∧ (State.init (.ref 2)).initialized = false ∧ (answering [.ok 0#16] (ready 2)).Inv ∧
    (answering [.fail] (ready 2)).Inv ∧ (ready 2).busy = false ∧ (ready 2).env.hung = false ∧
    (ready 2).initialized = true ∧ ((0 < 1 ∨ 8 < 0) ∧ (9 < 1 ∨ 8 < 9) ∧ 1 ≤ 1 ∧ 8 ≤ 8) ∧
    ((0 < 1 ∨ (ready 2).cfg.nChips < 0) ∧ (3 < 1 ∨ (ready 2).cfg.nChips < 3)) ∧
    (1 ≤ (ready 2).cfg.nChips ∧ 2 ≤ (ready 2).cfg.nChips) ∧
    ((ready 2).maskAt 2 .diag &&& ~~~(1#8 <<< (8 - 1)) = (ready 2).maskAt 2 .diag) ∧
    ((ready 2).maskAt 2 .diag ||| (1#8 <<< (8 - 1)) ≠ (ready 2).maskAt 2 .diag) ∧
    (answering [.ok 0#16] (ready 2)).nextTransfer = .ok 0#16 ∧ (answering [.fail] (ready 2)).nextTransfer = .fail :=
  ⟨init_ref_inv (by decide), rfl, answering_inv (ready_inv (by decide)) _, answering_inv (ready_inv (by decide)) _,
    by decide⟩
/-- WholeMaskOperationsSendTheMask: each clause, the chip at 0, 1, N and N + 1. -/
theorem witness_whole_mask :
    (State.init (.ref 2)).Inv ∧ (State.init (.ref 2)).initialized = false ∧ (answering [.ok 0#16] (ready 2)).Inv ∧
    (answering [.fail] (ready 2)).Inv ∧ (ready 2).busy = false ∧ (ready 2).env.hung = false ∧
    (ready 2).initialized = true ∧ ((0 < 1 ∨ (ready 2).cfg.nChips < 0) ∧ (3 < 1 ∨ (ready 2).cfg.nChips < 3)) ∧
    (1 ≤ (ready 2).cfg.nChips ∧ 2 ≤ (ready 2).cfg.nChips) ∧ (ready 2).cfg.modeOf 0x7#4 = none ∧
    (ready 2).cfg.modeOf 0xC#4 = some .output ∧ 0x00#8 = (ready 2).maskAt 2 .output ∧
    0xFF#8 ≠ (ready 2).maskAt 2 .output ∧ (answering [.ok 0#16] (ready 2)).nextTransfer = .ok 0#16 ∧
    (answering [.fail] (ready 2)).nextTransfer = .fail :=
  ⟨init_ref_inv (by decide), rfl, answering_inv (ready_inv (by decide)) _, answering_inv (ready_inv (by decide)) _,
    by decide⟩
theorem witness_candidate : 1 ≤ 1 ∧ 1 ≤ 8 ∧ 1 ≤ 8 ∧ 8 ≤ 8 ∧ 0 < 8 ∧ 7 < 8 := by decide
/-- RedundantRequestsAreSuppressed: a whole mask, and a channel that is already as requested. -/
theorem witness_redundant :
    (ready 3).busy = false ∧ AsksFor (ready 3) (.setMultiplePins 3 0xC#4 0#8) 3 .output ((ready 3).maskAt 3 .output) ∧
    AsksFor (ready 3) (channelOp .diag 1 8 false) 1 .diag ((ready 3).maskAt 1 .diag) :=
  ⟨rfl, (asksFor_whole 0#8 rfl (by decide) (by decide)).1, asksFor_channel .diag false rfl (by decide) (by decide)⟩
theorem witness_channel_bit :
    ((ready 2).busy = false ∧ (ready 2).initialized = true ∧ (0 < 1 ∨ 8 < 0) ∧ (9 < 1 ∨ 8 < 9)) ∧
    (answering [.ok 0#16] (ready 2)).Inv ∧ (answering [.ok 0#16] (ready 2)).busy = false ∧
    ∃ t r, exec (channelOp .protect 1 3 true) (answering [.ok 0#16] (ready 2)) = .next t ∧ t.result = some r ∧
      r.status = .ok := by
  obtain ⟨t, h, h'⟩ := next_of_record test_set_protection
  exact ⟨by decide, answering_inv (ready_inv (by decide)) _, rfl, t, _, h, h', rfl⟩
/-- RepeatedRequestTransactsOnlyAfterFailure, SingleChipOperationsTouchNoOtherChip: both answers. -/
theorem witness_repeat :
    (answering [.ok 0#16] (ready 3)).Inv ∧ (answering [.fail] (ready 3)).Inv ∧
    (answering [.fail] (ready 3)).busy = false ∧
    AsksFor (answering [.ok 0#16] (ready 3)) (.targeted 2 0x3#4 0x0F#8) 2 .diag 0x0F#8 ∧
    AsksFor (answering [.fail] (ready 3)) (.targeted 2 0x3#4 0x0F#8) 2 .diag 0x0F#8 ∧
    (∃ t r, exec (.targeted 2 0x3#4 0x0F#8) (answering [.ok 0#16] (ready 3)) = .next t ∧ t.result = some r ∧
      r.status = .ok) ∧
    (∃ t r, exec (.targeted 2 0x3#4 0x0F#8) (answering [.fail] (ready 3)) = .next t ∧ t.result = some r ∧
      r.status = .transportFailure) := by
  obtain ⟨t, h, h'⟩ := record_set
  obtain ⟨u, g, g'⟩ := record_set_fails
  exact ⟨answering_inv (ready_inv (by decide)) _, answering_inv (ready_inv (by decide)) _, rfl, asksFor_set,
    (asksFor_whole _ rfl (by decide) (by decide)).2, ⟨t, _, h, h', rfl⟩, ⟨u, _, g, g', rfl⟩⟩
theorem witness_channel_as_whole : (State.init (.ref 2)).cfg.wf = true ∧ 1 ≤ 1 ∧ 8 ≤ 8 := by decide
theorem witness_batch :
    let s := answering ((List.replicate 8 0#16).map .ok) (ready 2)
    s.Inv ∧ s.busy = false ∧ s.env.hung = false ∧ s.initialized = true ∧ 1 ≤ 2 ∧ 2 ≤ s.cfg.nChips ∧
      (List.replicate 8 0#16).length = 8 ∧ s.env.transferAnswers = (List.replicate 8 0#16).map .ok :=
  ⟨answering_inv (ready_inv (by decide)) _, by decide⟩
theorem witness_transact :
    (answering [.ok 0#16] (ready 2)).Inv ∧ (answering [.fail] (ready 2)).Inv ∧ (ready 2).busy = false ∧
    (ready 2).env.hung = false ∧ 1 ≤ 1 ∧ 2 ≤ (ready 2).cfg.nChips ∧
    (answering [.ok 0#16] (ready 2)).nextTransfer = .ok 0#16 ∧ (answering [.fail] (ready 2)).nextTransfer = .fail :=
  ⟨answering_inv (ready_inv (by decide)) _, answering_inv (ready_inv (by decide)) _, by decide⟩
theorem witness_broadcast_checks :
    (State.init (.ref 2)).busy = false ∧ (State.init (.ref 2)).initialized = false ∧ (ready 2).busy = false ∧
    (ready 2).initialized = true ∧ (ready 2).cfg.modeOf 0x7#4 = none := by decide
/-- BroadcastServesTheChipsThatDiffer: chip 2 holds the mask, chips 1 and 3 are served, one answer is left over. -/
theorem witness_broadcast_serves :
    let s := answering ([0x8000#16, 0#16].map .ok ++ [.fail]) (holding 2 .diag 0xA5#8 (ready 3))
    s.Inv ∧ s.busy = false ∧ s.env.hung = false ∧ s.initialized = true ∧ s.cfg.modeOf 0x3#4 = some .diag ∧
      [0x8000#16, 0#16].length = (chipsToServe s .diag 0xA5#8).length ∧
      s.env.transferAnswers = [0x8000#16, 0#16].map .ok ++ [.fail] :=
  ⟨answering_inv (holding_inv (by decide) _ _ _) _, by decide⟩
/-- BroadcastStopsAtTheFirstFailure: chip 3, the second of the chips to serve, fails. -/
theorem witness_broadcast_stops :
    let s := answering ([0x8000#16].map .ok ++ .fail :: []) (holding 2 .diag 0xA5#8 (ready 3))
    s.Inv ∧ s.busy = false ∧ s.env.hung = false ∧ s.initialized = true ∧ s.cfg.modeOf 0x3#4 = some .diag ∧
      (chipsToServe s .diag 0xA5#8)[[0x8000#16].length]? = some 3 ∧
      s.env.transferAnswers = [0x8000#16].map .ok ++ .fail :: [] :=
  ⟨answering_inv (holding_inv (by decide) _ _ _) _, by decide⟩
theorem witness_broadcast_rolls_not_back :
    (ready 3).Inv ∧ (ready 3).busy = false ∧ (ready 3).env.hung = false ∧ (ready 3).initialized = true ∧
    (ready 3).cfg.modeOf 0x3#4 = some .diag := ⟨ready_inv (by decide), by decide⟩
theorem witness_broadcast_resumes :
    let s := answering [.ok 0x8000#16, .ok 0#16, .fail] (ready 5)
    s.Inv ∧ s.busy = false ∧ s.initialized = true ∧ s.cfg.modeOf 0xC#4 = some .output ∧
      ∃ t r, exec (.broadcast 0xC#4 0x0F#8) s = .next t ∧ t.result = some r ∧ r.failIndex = some 3 := by
  obtain ⟨t, h, h'⟩ := next_of_record test_broadcast_stops
  exact ⟨answering_inv (ready_inv (by decide)) _, rfl, rfl, by decide, t, _, h, h', rfl⟩
/-- TracesAreBracketedTransactions: a broadcast, an INIT and a single-chip operation with their traces, and a
validation error. -/
theorem witness_traces :
    (answering [.ok 0x8000#16, .ok 0#16, .fail] (ready 5)).Inv ∧ (ready 5).busy = false ∧
    (isHostOperation (.broadcast 0xC#4 0x0F#8) = true ∧ ∃ t r,
      exec (.broadcast 0xC#4 0x0F#8) (answering [.ok 0x8000#16, .ok 0#16, .fail] (ready 5)) = .next t ∧
      t.result = some r) ∧
    ((initAnswering [.ok] (State.init (.ref 2))).Inv ∧ isHostOperation .init = true ∧ ∃ t r,
      exec .init (initAnswering [.ok] (State.init (.ref 2))) = .next t ∧ t.result = some r) ∧
    ((∀ mode mask, Instr.targeted 2 0x3#4 0x0F#8 ≠ .broadcast mode mask) ∧ ∃ t r,
      exec (.targeted 2 0x3#4 0x0F#8) (answering [.ok 0#16] (ready 3)) = .next t ∧ t.result = some r) ∧
    (∃ t r, exec (.targeted 2 0x3#4 0x0F#8) (ready 1) = .next t ∧ t.result = some r ∧
      r.status.isValidation = true) := by
  obtain ⟨t, h, h'⟩ := next_of_record test_broadcast_stops
  obtain ⟨u, g, g'⟩ := next_of_record test_init.1
  obtain ⟨v, f, f'⟩ := record_set
  obtain ⟨w, e, e'⟩ := next_of_record test_targeted.2
  exact ⟨answering_inv (ready_inv (by decide)) _, rfl, ⟨rfl, t, _, h, h'⟩,
    ⟨initAnswering_inv (init_ref_inv (by decide)) _, rfl, u, _, g, g'⟩, ⟨nofun, v, _, f, f'⟩,
    ⟨w, _, e, e', rfl⟩⟩
theorem witness_one_chip : (ready 1).Inv ∧ (ready 1).cfg.nChips = 1 := ⟨ready_inv (by decide), rfl⟩
theorem witness_init :
    (ready 2).Inv ∧ (ready 2).busy = false ∧ (ready 2).initialized = true ∧
    (initAnswering [.ok] (State.init (.ref 2))).Inv ∧ (initAnswering [.fail] (State.init (.ref 2))).Inv ∧
    (State.init (.ref 2)).busy = false ∧ (State.init (.ref 2)).initialized = false ∧
    (State.init (.ref 2)).env.hung = false ∧ (initAnswering [.ok] (State.init (.ref 2))).nextInit = .ok ∧
    (initAnswering [.fail] (State.init (.ref 2))).nextInit = .fail :=
  ⟨ready_inv (by decide), rfl, rfl, initAnswering_inv (init_ref_inv (by decide)) _,
    initAnswering_inv (init_ref_inv (by decide)) _, by decide⟩
theorem witness_select : flying.env.hung = false ∧ 1 ≤ 1 ∧ 3 ≤ flying.cfg.nChips ∧ flying.cs.length = flying.cfg.nChips := by
  decide
/-- TransferReachesTheSelectedChips: both answers, a command word and a word that is none. -/
theorem witness_transfer :
    flying.cfg.wf = true ∧ flying.env.hung = false ∧ (answering [.fail] flying).nextTransfer = .fail ∧
    (answering [.ok 1#16] flying).nextTransfer = .ok 1#16 ∧ 0xA5C5#16 = wireWord (flying.cfg.code .diag) 0xA5#8 ∧
    ∀ m v, 0xA5C4#16 ≠ wireWord (flying.cfg.code m) v := by
  refine ⟨by decide, by decide, by decide, by decide, by decide, fun m => ?_⟩
  cases m <;> decide +kernel
/-- ReplyIsDecodedForTheSelectedChip: with a line asserted, and with none. -/
theorem witness_reply :
    flying.Inv ∧ flying.seq.phase.lineUp = true ∧ (ready 2).Inv ∧ (ready 2).seq.phase.lineUp = false :=
  ⟨flying_inv, rfl, ready_inv (by decide), rfl⟩
/-- HungTransportNeverReturns: an idle block that would call it, and one that waits for it. -/
theorem witness_hung :
    ((hanging (State.init (.ref 2))).env.hung = true ∧ (hanging (State.init (.ref 2))).busy = false ∧
      (hanging (State.init (.ref 2))).initialized = false) ∧
    ((hanging (ready 2)).env.hung = true ∧ (hanging (ready 2)).busy = false ∧ (hanging (ready 2)).initialized = true ∧
      (hanging (ready 2)).cfg.modeOf 0xC#4 = some .output ∧ chipsToServe (hanging (ready 2)) .output 1#8 ≠ [] ∧
      (hanging (ready 2)).maskAt 2 .output ≠ 1#8 ∧ 2 ≤ (hanging (ready 2)).cfg.nChips) ∧
    AsksFor (hanging (ready 2)) (.targeted 2 0xC#4 1#8) 2 .output 1#8 ∧
    ((hanging flying).env.hung = true ∧ (hanging flying).env.inputs = [] ∧ (hanging flying).busy = true ∧
      ((hanging flying).seq.phase = .busInit ∨ (hanging flying).seq.phase = .select ∨
        (hanging flying).seq.phase = .transfer ∨ (hanging flying).seq.phase = .deselect)) ∧
    (let s := hanging (flying.goto .deselect)
     s.env.hung = true ∧ s.env.inputs = [] ∧ s.busy = true ∧ (s.seq.phase = .busInit ∨ s.seq.phase = .select ∨
      s.seq.phase = .transfer ∨ s.seq.phase = .deselect)) :=
  ⟨by decide, by decide, (asksFor_whole _ rfl (by decide) (by decide)).2, by decide, by decide⟩
/-- OperationsEndAsTheTableSays, ValidationErrorsChangeNothing: a host operation that ends with an error, ENCODE. -/
theorem witness_operations_end :
    (ready 1).busy = false ∧ isHostOperation (.targeted 2 0x3#4 0x0F#8) = true ∧
    (∃ t r, exec (.targeted 2 0x3#4 0x0F#8) (ready 1) = .next t ∧ t.result = some r ∧
      r.status.isValidation = true) ∧
    (∃ mode mask, Instr.encode 0xB#4 0#8 = .encode mode mask) ∧ (∃ t, exec (.encode 0xB#4 0#8) (ready 1) = .next t) := by
  obtain ⟨w, e, e'⟩ := next_of_record test_targeted.2
  obtain ⟨v, f, _⟩ := next_of_record test_encode_invalid_mode
  exact ⟨rfl, rfl, ⟨w, _, e, e', rfl⟩, ⟨_, _, rfl⟩, v, f⟩
/-- TransportFailureLeavesTheCacheUntouched: with an index and, for INIT, without. -/
theorem witness_transport_failure :
    ((answering [.fail] (ready 3)).Inv ∧ (answering [.fail] (ready 3)).busy = false ∧
      isHostOperation (.targeted 2 0x3#4 0x0F#8) = true ∧ ∃ t r,
      exec (.targeted 2 0x3#4 0x0F#8) (answering [.fail] (ready 3)) = .next t ∧ t.result = some r ∧
      r.status = .transportFailure ∧ r.failIndex = some 2) ∧
    ((initAnswering [.fail] (State.init (.ref 2))).Inv ∧ (State.init (.ref 2)).busy = false ∧
      isHostOperation .init = true ∧ ∃ t r,
      exec .init (initAnswering [.fail] (State.init (.ref 2))) = .next t ∧ t.result = some r ∧
      r.status = .transportFailure ∧ r.failIndex = none) := by
  obtain ⟨u, g, g'⟩ := record_set_fails
  obtain ⟨v, f, f'⟩ := next_of_record test_init.2
  exact ⟨⟨answering_inv (ready_inv (by decide)) _, rfl, rfl, u, _, g, g', rfl, rfl⟩,
    ⟨initAnswering_inv (init_ref_inv (by decide)) _, rfl, rfl, v, _, f, f', rfl, rfl⟩⟩
theorem witness_before_init :
    (State.init (.ref 2)).busy = false ∧ (State.init (.ref 2)).initialized = false ∧
    isHostOperation (.setOutput 9 0 true) = true ∧ Instr.setOutput 9 0 true ≠ .init := by decide
/-- CacheIsWrittenOnlyAfterAnOkTransfer: CACHE_SET, and an operation with an ok transfer. -/
theorem witness_cache_written :
    ((ready 2).Inv ∧ ∃ t, exec (.cacheSet 1 .output 0x10#8) (ready 2) = .next t ∧ t.cache ≠ (ready 2).cache) ∧
    ((answering [.ok 0#16] (ready 3)).Inv ∧ ∃ t,
      exec (.targeted 2 0x3#4 0x0F#8) (answering [.ok 0#16] (ready 3)) = .next t ∧ t.cache ≠ (ready 3).cache) := by
  obtain ⟨t, h, h'⟩ := next_of_some test_targeted.1
  exact ⟨⟨ready_inv (by decide), _, rfl, by decide⟩,
    ⟨answering_inv (ready_inv (by decide)) _, t, h, by rw [h']; decide⟩⟩
/-- OnlyInitAndResetMoveInitialized: an INIT that succeeds, and a reset. -/
theorem witness_initialized_moves :
    (∃ t, step (given [.port (.request { op := 0#4 })] (initAnswering [.ok] (State.init (.ref 2)))) = .next t ∧
      t.initialized = true) ∧
    (given [.port (.request { op := 0#4 })] (initAnswering [.ok] (State.init (.ref 2)))).Inv ∧
    (State.init (.ref 2)).initialized = false ∧ (given [.env .reset] (ready 2)).Inv ∧ (ready 2).initialized = true ∧
    (∃ t, step (given [.env .reset] (ready 2)) = .next t ∧ t.initialized = false) :=
  ⟨next_of_some (f := (·.initialized)) (by decide), given_inv (initAnswering_inv (init_ref_inv (by decide)) _) _, rfl,
    given_inv (ready_inv (by decide)) _, rfl, next_of_some (f := (·.initialized)) (by decide)⟩
/-- ParametersNeverChange, StepKeepsTheInvariant, EachPhaseMakesAtMostOneCall: a transfer in flight, answered ok. -/
theorem witness_phase :
    (answering [.ok 0#16] flying).Inv ∧ (answering [.ok 0#16] flying).busy = true ∧
    (answering [.ok 0#16] flying).env.inputs = [] ∧ flying.seq.phase ≠ .done ∧
    ∃ t, step (answering [.ok 0#16] flying) = .next t := by
  obtain ⟨t, h, _⟩ := next_of_some test_step_transfer_phase
  exact ⟨answering_inv flying_inv _, rfl, rfl, by decide, t, h⟩
/-- EachPhaseMakesAtMostOneCall, the last phase: the operation of `flying` when it is done. -/
theorem witness_phase_done :
    let s := { (ready 3) with busy := true, level := .event, seq := { Sequencer.reset with phase := .done } }
    s.Inv ∧ s.busy = true ∧ s.env.inputs = [] ∧ s.seq.phase = .done ∧ ∃ t, step s = .next t :=
  ⟨⟨by decide, by decide, by decide, by decide, by decide, by decide, by decide, by decide, by decide,
    nofun, by decide, by decide⟩, rfl, rfl, rfl, _, rfl⟩
theorem witness_walk :
    let r : Request := { op := 6#4, mode := 0x3#4, mask := 0xA5#8 }
    let s := given [.port (.request r)] (stepwise (ready 3))
    s.Inv ∧ s.busy = false ∧ s.level = .event ∧ s.env.hung = false ∧ s.env.inputs = [.port (.request r)] :=
  ⟨given_inv (stepwise_inv (ready_inv (by decide))) _, rfl, rfl, rfl, rfl⟩
/-- SelectLinesAreExclusive: an idle block at its first and last chip, and a chip selected. -/
theorem witness_select_lines :
    (ready 3).Inv ∧ (ready 3).busy = false ∧ 1 ≤ 1 ∧ 3 ≤ (ready 3).cfg.nChips ∧ flying.Inv ∧
    flying.cs[2]? = some true ∧ (flying.seq.phase = .transfer ∨ flying.seq.phase = .deselect) :=
  ⟨ready_inv (by decide), rfl, by decide, by decide, flying_inv, by decide, by decide⟩
theorem witness_coherent :
    (answering [.ok 0#16] flying).Inv ∧ (answering [.ok 0#16] flying).Coherent ∧
    (answering [.ok 0#16] flying).Undisturbed ∧ ∃ t, step (answering [.ok 0#16] flying) = .next t :=
  ⟨witness_phase.1, by unfold State.Coherent; decide, nofun, witness_phase.2.2.2.2⟩
/-- CacheReflectsTheWordsSent: chip 2 was sent its mask by an operation before, chip 1 by the one in flight. -/
theorem witness_reflects :
    (answering [.ok 0#16] flying).Inv ∧
    (answering [.ok 0#16] flying).Reflects (.init .ok :: transactionEvents 2 0xA5C5#16 (.ok 0#16)) ∧
    ∃ t, step (answering [.ok 0#16] flying) = .next t := by
  refine ⟨witness_phase.1, fun k m hk => ?_, witness_phase.2.2.2.2⟩
  obtain ⟨h1, h3⟩ : 1 ≤ k ∧ k ≤ 3 := hasChip_iff.1 hk
  interval_cases k <;> cases m <;> decide +kernel
theorem witness_reset : (Config.ref 1).wf = true ∧ (given [.env .reset] flying).env.inputs = .env .reset :: [] := by
  decide

end Sys2Proof.Tests
end

/-! PROOFS for 00_scope.md: the mode codes (R13, R85, R96) and the parameters, which no step changes (R8, R10, D2). -/

/-! ### The mode codes -/

namespace Sys2Proof

/-- The three mode codes as numbers (R85). -/
def Config.codeNumbers (c : Config) : Finset Nat :=
  {c.codeProtect.toNat, c.codeDiag.toNat, c.codeOutput.toNat}

/-- Legal parameters have three different codes (R85). -/
theorem Config.card_codeNumbers {c : Config} (h : c.wf = true) : c.codeNumbers.card = 3 := by
  simp only [Config.wf, Bool.and_eq_true, decide_eq_true_eq] at h
  obtain ⟨⟨⟨_, hpd⟩, hpo⟩, hdo⟩ := h
  exact Finset.card_eq_three.2 ⟨_, _, _, mt BitVec.eq_of_toNat_eq hpd, mt BitVec.eq_of_toNat_eq hpo,
    mt BitVec.eq_of_toNat_eq hdo, rfl⟩

/-- A code is a number of four bits (R91). -/
theorem Config.codeNumbers_subset (c : Config) : c.codeNumbers ⊆ Finset.range 16 := by
  intro n hn
  simp only [Config.codeNumbers, Finset.mem_insert, Finset.mem_singleton] at hn
  rw [Finset.mem_range]
  obtain rfl | rfl | rfl := hn <;> exact BitVec.isLt _

/-- A number of four bits has no mode exactly when it is none of the three codes (R96). -/
theorem modeOf_ofNat_isNone_iff (c : Config) {n : Nat} (hn : n < 16) :
    (c.modeOf (BitVec.ofNat 4 n)).isNone = true ↔ n ∉ c.codeNumbers := by
  have ofNat_eq_iff (code : ModeCode) : BitVec.ofNat 4 n = code ↔ n = code.toNat := by
    rw [← BitVec.toNat_inj, BitVec.toNat_ofNat, Nat.mod_eq_of_lt hn]
  simp only [Option.isNone_iff_eq_none, modeOf_eq_none_iff, Config.codeNumbers, Finset.mem_insert,
    Finset.mem_singleton, ofNat_eq_iff]

/-- The illegal codes are the four-bit numbers without the three codes (R96). -/
theorem illegalCodes_toFinset (c : Config) :
    ((List.range 16).filter fun n => (c.modeOf (BitVec.ofNat 4 n)).isNone).toFinset =
      Finset.range 16 \ c.codeNumbers := by
  ext n
  simp only [List.mem_toFinset, List.mem_filter, List.mem_range, Finset.mem_sdiff, Finset.mem_range]
  exact and_congr_right fun hn => modeOf_ofNat_isNone_iff c hn

/-- Settles O8: the inverse is a law of the codes, and the illegal codes are counted as a set difference. -/
theorem modeOfInvertsCode : Obligations.ModeOfInvertsCode := by
  intro c hc
  refine ⟨modeOf_eq_some_iff hc, ?_⟩
  rw [← List.toFinset_card_of_nodup (List.nodup_range.filter _), illegalCodes_toFinset,
    Finset.card_sdiff_of_subset c.codeNumbers_subset, Config.card_codeNumbers hc, Finset.card_range]

end Sys2Proof

namespace Sys2Proof.Machine

/-! ### What holds of the next state, if there is one -/

/-- `P` holds of the next state of an outcome that has one. -/
def OnNext (P : State → Prop) (o : Host.Outcome State Fault Refusal) : Prop := ∀ t, o = .next t → P t

@[simp] theorem onNext_next {P : State → Prop} {t : State} : OnNext P (.next t) ↔ P t :=
  ⟨fun h => h t rfl, fun h _ ht => by cases ht; exact h⟩

@[simp] theorem onNext_fault (P : State → Prop) (f : Fault) : OnNext P (.fault f) :=
  fun _ h => by cases h

/-- A request that is held off changes nothing (R28), so only its body is in question. -/
theorem onNext_whenIdle {P : State → Prop} {s : State} {body : Host.Outcome State Fault Refusal} (hs : P s)
    (hb : OnNext P body) : OnNext P (s.whenIdle body) := by
  unfold State.whenIdle
  split
  · exact onNext_next.2 hs
  · exact hb

/-- An outcome that is a fault under some condition, as a call of a hung Transport is (R196). -/
theorem onNext_unlessFault {P : State → Prop} {b : Prop} [Decidable b] {f : Fault} {t : State} (h : P t) :
    OnNext P (if b then .fault f else .next t) := by
  split
  · exact onNext_fault P f
  · exact onNext_next.2 h

/-- A micro-operation on a chip runs only inside the chain. -/
theorem onNext_inChain {P : State → Prop} {s : State} {k : Nat} {o : Host.Outcome State Fault Refusal}
    (h : OnNext P o) : OnNext P (if s.cfg.hasChip k then o else .fault .noSuchChip) := by
  split
  · exact h
  · exact onNext_fault P _

/-- The outcome is no next state, or one with the parameters of `s` (R10, D2). -/
abbrev KeepsConfig (s : State) : Host.Outcome State Fault Refusal → Prop := OnNext (·.cfg = s.cfg)

/-! ### The shared operations keep the parameters -/

@[simp] theorem State.raise_cfg (s : State) (e : Status) : (s.raise e).cfg = s.cfg := rfl

@[simp] theorem State.tInit_cfg (s : State) : s.tInit.2.cfg = s.cfg := rfl

@[simp] theorem State.tTransfer_cfg (s : State) (w : Word) : (s.tTransfer w).2.cfg = s.cfg := by
  rw [(tTransfer_shape s w).1]

@[simp] theorem State.transact_cfg (s : State) (k : Nat) (m : Mode) (v : Mask) :
    (s.transact k m v).2.cfg = s.cfg := by
  obtain ⟨_, _, _, _, hcfg, _⟩ := transact_env s k m v
  exact hcfg

@[simp] theorem State.transactAlone_cfg (s : State) (k : Nat) (m : Mode) (v : Mask) :
    (s.transactAlone k m v).cfg = s.cfg := by
  unfold State.transactAlone
  dsimp only
  split <;> simp

@[simp] theorem broadcastLoop_cfg (m : Mode) (v : Mask) (n k : Nat) (s : State) :
    (broadcastLoop m v n k s).2.cfg = s.cfg := by
  obtain ⟨_, _, _, _, hcfg, _⟩ := broadcastLoop_env m v n k s
  exact hcfg

@[simp] theorem State.broadcastAll_cfg (s : State) (m : Mode) (v : Mask) : (s.broadcastAll m v).cfg = s.cfg := by
  unfold State.broadcastAll
  dsimp only
  split <;> simp

@[simp] theorem State.initBus_cfg (s : State) : s.initBus.cfg = s.cfg := by
  unfold State.initBus
  dsimp only
  split <;> simp

/-! ### The instructions keep the parameters -/

theorem sendMask_keepsConfig (s : State) (k : Nat) (m : Mode) (v : Mask) : KeepsConfig s (s.sendMask k m v) := by
  unfold State.sendMask
  split
  · exact onNext_next.2 rfl
  · exact onNext_unlessFault (s.transactAlone_cfg k m v)

theorem setChannel_keepsConfig (s : State) (m : Mode) (chip channel : Nat) (enabled : Bool) :
    KeepsConfig s (s.setChannel m chip channel enabled) := by
  refine onNext_whenIdle rfl ?_
  split
  · exact onNext_next.2 rfl
  · exact sendMask_keepsConfig s chip m _

theorem setWhole_keepsConfig (s : State) (chip : Nat) (mode : ModeCode) (mask : Mask) :
    KeepsConfig s (s.setWhole chip mode mask) := by
  refine onNext_whenIdle rfl ?_
  split
  · exact onNext_next.2 rfl
  · split
    · exact sendMask_keepsConfig s chip _ mask
    · exact onNext_next.2 rfl

theorem execBroadcast_keepsConfig (mode : ModeCode) (mask : Mask) (s : State) :
    KeepsConfig s (execBroadcast mode mask s) := by
  refine onNext_whenIdle rfl ?_
  split
  · exact onNext_next.2 rfl
  · split
    · exact onNext_unlessFault (s.broadcastAll_cfg _ mask)
    · exact onNext_next.2 rfl

theorem execCacheGet_keepsConfig (chip : Nat) (mode : ModeCode) (s : State) :
    KeepsConfig s (execCacheGet chip mode s) := by
  refine onNext_whenIdle rfl ?_
  split <;> exact onNext_next.2 rfl

theorem execInit_keepsConfig (s : State) : KeepsConfig s (execInit s) := by
  refine onNext_whenIdle rfl ?_
  split
  · exact onNext_next.2 rfl
  · exact onNext_unlessFault s.initBus_cfg

theorem execEncode_keepsConfig (mode : ModeCode) (mask : Mask) (s : State) :
    KeepsConfig s (execEncode mode mask s) := by
  unfold execEncode
  split <;> exact onNext_next.2 rfl

/-- No instruction changes the parameters (R10, D2). -/
theorem exec_keepsConfig (i : Instr) (s : State) : KeepsConfig s (exec i s) := by
  cases i with
  | init => exact execInit_keepsConfig s
  | setProtection chip channel enabled => exact setChannel_keepsConfig s .protect chip channel enabled
  | setDiagnostics chip channel enabled => exact setChannel_keepsConfig s .diag chip channel enabled
  | setOutput chip channel enabled => exact setChannel_keepsConfig s .output chip channel enabled
  | setMultiplePins chip mode mask => exact setWhole_keepsConfig s chip mode mask
  | targeted chip mode mask => exact setWhole_keepsConfig s chip mode mask
  | broadcast mode mask => exact execBroadcast_keepsConfig mode mask s
  | cacheGet chip mode => exact execCacheGet_keepsConfig chip mode s
  | encode mode mask => exact execEncode_keepsConfig mode mask s
  | cacheSet chip m mask => exact onNext_inChain (onNext_next.2 rfl)
  | transact k m v => exact onNext_inChain (onNext_unlessFault (s.transactAlone_cfg k m v))
  | tInit => exact onNext_unlessFault s.tInit_cfg
  | tSelect k => exact onNext_inChain (onNext_unlessFault (s.tSelect_cfg k))
  | tDeselect k => exact onNext_inChain (onNext_unlessFault (s.tDeselect_cfg k))
  | tTransfer w => exact onNext_unlessFault (s.tTransfer_cfg w)
  | reservedOp | wrProtect | wrDiag | wrOutput | reply | decode | rev16 | enablePwm => exact onNext_next.2 rfl

/-! ### The sequencer keeps the parameters -/

@[simp] theorem State.acceptChannel_cfg (s : State) (m : Mode) (chip channel : Nat) (enabled : Bool) :
    (s.acceptChannel m chip channel enabled).cfg = s.cfg := by
  unfold State.acceptChannel
  split <;> rfl

@[simp] theorem State.acceptWhole_cfg (s : State) (chip : Nat) (mode : ModeCode) (mask : Mask) :
    (s.acceptWhole chip mode mask).cfg = s.cfg := by
  unfold State.acceptWhole
  split
  · rfl
  · split <;> rfl

@[simp] theorem State.acceptBroadcast_cfg (s : State) (mode : ModeCode) (mask : Mask) :
    (s.acceptBroadcast mode mask).cfg = s.cfg := by
  unfold State.acceptBroadcast
  split
  · rfl
  · split <;> rfl

@[simp] theorem State.acceptInit_cfg (s : State) : s.acceptInit.cfg = s.cfg := by
  unfold State.acceptInit
  split <;> rfl

/-- Accepting an instruction at the event level changes no parameter. -/
theorem accept_keepsConfig (i : Instr) (s : State) : KeepsConfig s (accept i s) := by
  cases i with
  | init => exact onNext_next.2 s.acceptInit_cfg
  | setProtection chip channel enabled => exact onNext_next.2 (s.acceptChannel_cfg .protect chip channel enabled)
  | setDiagnostics chip channel enabled => exact onNext_next.2 (s.acceptChannel_cfg .diag chip channel enabled)
  | setOutput chip channel enabled => exact onNext_next.2 (s.acceptChannel_cfg .output chip channel enabled)
  | setMultiplePins chip mode mask => exact onNext_next.2 (s.acceptWhole_cfg chip mode mask)
  | targeted chip mode mask => exact onNext_next.2 (s.acceptWhole_cfg chip mode mask)
  | broadcast mode mask => exact onNext_next.2 (s.acceptBroadcast_cfg mode mask)
  | cacheGet | reservedOp | wrProtect | wrDiag | wrOutput | reply | encode | decode | rev16 | cacheSet | transact
  | tInit | tSelect | tDeselect | tTransfer | enablePwm =>
    unfold accept
    exact exec_keepsConfig _ s

@[simp] theorem State.nextChip_cfg (s : State) : s.nextChip.cfg = s.cfg := by
  unfold State.nextChip
  split <;> rfl

@[simp] theorem State.phaseBusInit_cfg (s : State) : s.phaseBusInit.cfg = s.cfg := by
  unfold State.phaseBusInit
  dsimp only
  split <;> simp

@[simp] theorem State.phaseCheck_cfg (s : State) : s.phaseCheck.cfg = s.cfg := by
  unfold State.phaseCheck
  dsimp only
  split
  · exact State.nextChip_cfg _
  · rfl

@[simp] theorem State.phaseTransfer_cfg (s : State) : s.phaseTransfer.cfg = s.cfg := s.tTransfer_cfg _

@[simp] theorem State.phaseDeselect_cfg (s : State) : s.phaseDeselect.cfg = s.cfg := by
  unfold State.phaseDeselect
  dsimp only
  split <;> rfl

@[simp] theorem State.phaseUpdate_cfg (s : State) : s.phaseUpdate.cfg = s.cfg := by
  unfold State.phaseUpdate
  split <;> simp

/-- No phase changes the parameters. -/
@[simp] theorem advance_cfg (s : State) : (advance s).cfg = s.cfg := by
  have unlessHung {t : State} (ht : t.cfg = s.cfg) : (if s.env.hung then s else t).cfg = s.cfg := by
    split
    · rfl
    · exact ht
  unfold advance
  cases s.seq.phase with
  | idle => rfl
  | busInit => exact unlessHung s.phaseBusInit_cfg
  | check => exact s.phaseCheck_cfg
  | select => exact unlessHung rfl
  | transfer => exact unlessHung s.phaseTransfer_cfg
  | deselect => exact unlessHung s.phaseDeselect_cfg
  | update => exact s.phaseUpdate_cfg
  | done => rfl

/-! ### One step keeps the parameters -/

@[simp] theorem State.disturb_cfg (s : State) (e : EnvEvent) : (s.disturb e).cfg = s.cfg := by
  cases e with
  | reset | transportHangs => rfl
  | chipChanges k regs =>
    unfold State.disturb
    dsimp only
    split <;> rfl

theorem perform_keepsConfig (s : State) (i : Instr) : KeepsConfig s (s.perform i) := by
  unfold State.perform
  split
  · exact exec_keepsConfig i s
  · exact accept_keepsConfig i s

theorem serve_keepsConfig (s : State) (p : Port) : KeepsConfig s (s.serve p) := by
  unfold State.serve
  split
  · exact exec_keepsConfig _ s
  · exact onNext_next.2 rfl

/-- A step waits, goes on with a phase, or takes an input; none of these changes the parameters. -/
theorem step_keepsConfig (s : State) : KeepsConfig s (step s) := by
  have advances : KeepsConfig s (.next (advance s.clearResult)) := onNext_next.2 (advance_cfg s.clearResult)
  unfold step runNext
  split
  · split
    · exact advances
    · exact onNext_next.2 rfl
  · exact onNext_next.2 (State.disturb_cfg _ _)
  · split
    · exact advances
    · exact perform_keepsConfig (s.take _) _
  · exact serve_keepsConfig (s.take _) _

/-- Settles O51: `step_keepsConfig`, said of the next state. -/
theorem parametersNeverChange : Obligations.ParametersNeverChange :=
  fun s t h => step_keepsConfig s t h

end Sys2Proof.Machine

/-! PROOFS for 10_state.md: the cache and the words sent (R23), who writes the cache (R24), who moves `initialized`
(R25), the select lines (R27). The first part says once what a step can do; the statements are read off from it. -/

namespace Sys2Proof.Machine

/-! ### What a request can bring -/

/-- A request that is held off changes nothing (R28), and its body runs in an idle block only. -/
theorem onNext_whenIdle_of_idle {P : State → Prop} {s : State} {body : Host.Outcome State Fault Refusal} (hs : P s)
    (hb : s.busy = false → OnNext P body) : OnNext P (s.whenIdle body) := by
  cases hbusy : s.busy with
  | true => simpa [State.whenIdle, hbusy] using hs
  | false => exact onNext_whenIdle hs (hb hbusy)

/-- What the request `i` can bring at the operation level. -/
inductive HostOut (i : Instr) (s : State) : State → Prop
  | same : HostOut i s s
  | gave (r : Result) (hr : r.trace = []) : HostOut i s (s.give r)
  | transacted (k : Nat) (m : Mode) (v : Mask) (hb : s.busy = false) (hk : s.cfg.hasChip k = true) :
      HostOut i s (s.transactAlone k m v)
  | broadcasted (m : Mode) (v : Mask) (hb : s.busy = false) : HostOut i s (s.broadcastAll m v)
  | initialised (hi : i = .init) (hb : s.busy = false) (hn : s.initialized = false) : HostOut i s s.initBus

theorem sendMask_hostOut (i : Instr) {s : State} {k : Nat} (m : Mode) (v : Mask) (hb : s.busy = false)
    (hk : s.cfg.hasChip k = true) : OnNext (HostOut i s) (s.sendMask k m v) := by
  unfold State.sendMask
  split
  · exact onNext_next.2 (.gave _ rfl)
  · exact onNext_unlessFault (.transacted k m v hb hk)

theorem setChannel_hostOut (i : Instr) (s : State) (m : Mode) (chip channel : Nat) (enabled : Bool) :
    OnNext (HostOut i s) (s.setChannel m chip channel enabled) := by
  refine onNext_whenIdle_of_idle .same fun hb => ?_
  split
  · exact onNext_next.2 (.gave _ rfl)
  · next hv => exact sendMask_hostOut i m _ hb (hasChip_of_validate hv).2

theorem setWhole_hostOut (i : Instr) (s : State) (chip : Nat) (mode : ModeCode) (mask : Mask) :
    OnNext (HostOut i s) (s.setWhole chip mode mask) := by
  refine onNext_whenIdle_of_idle .same fun hb => ?_
  split
  · exact onNext_next.2 (.gave _ rfl)
  · next hv =>
    split
    · exact sendMask_hostOut i _ mask hb (hasChip_of_validate hv).2
    · exact onNext_next.2 (.gave _ rfl)

theorem execBroadcast_hostOut (i : Instr) (mode : ModeCode) (mask : Mask) (s : State) :
    OnNext (HostOut i s) (execBroadcast mode mask s) := by
  refine onNext_whenIdle_of_idle .same fun hb => ?_
  split
  · exact onNext_next.2 (.gave _ rfl)
  · split
    · exact onNext_unlessFault (.broadcasted _ mask hb)
    · exact onNext_next.2 (.gave _ rfl)

theorem execInit_hostOut (s : State) : OnNext (HostOut .init s) (execInit s) := by
  refine onNext_whenIdle_of_idle .same fun hb => ?_
  split
  · exact onNext_next.2 (.gave _ rfl)
  · next hn => exact onNext_unlessFault (.initialised rfl hb (Bool.eq_false_iff.2 hn))

/-- CACHE_GET answers with a record or is held off, and nothing else (R130). -/
theorem onNext_execCacheGet {P : State → Prop} {s : State} (same : P s) (gave : ∀ r, r.trace = [] → P (s.give r))
    (chip : Nat) (mode : ModeCode) : OnNext P (execCacheGet chip mode s) := by
  refine onNext_whenIdle same ?_
  split <;> exact onNext_next.2 (gave _ rfl)

/-- A host operation brings nothing else. -/
theorem exec_hostOut {i : Instr} (hi : isHostOperation i = true) (s : State) : OnNext (HostOut i s) (exec i s) := by
  cases i with
  | init => exact execInit_hostOut s
  | setProtection chip channel enabled => exact setChannel_hostOut _ s .protect chip channel enabled
  | setDiagnostics chip channel enabled => exact setChannel_hostOut _ s .diag chip channel enabled
  | setOutput chip channel enabled => exact setChannel_hostOut _ s .output chip channel enabled
  | setMultiplePins chip mode mask => exact setWhole_hostOut _ s chip mode mask
  | targeted chip mode mask => exact setWhole_hostOut _ s chip mode mask
  | broadcast mode mask => exact execBroadcast_hostOut _ mode mask s
  | cacheGet chip mode => exact onNext_execCacheGet .same .gave chip mode
  | reservedOp | wrProtect | wrDiag | wrOutput | reply | encode | decode | rev16 | cacheSet | transact
  | tInit | tSelect | tDeselect | tTransfer | enablePwm => cases hi

/-- What a request can bring at the event level: it ends at once, or an operation begins (R176). -/
inductive AcceptOut (s : State) : State → Prop
  | same : AcceptOut s s
  | gave (r : Result) (hr : r.trace = []) : AcceptOut s (s.give r)
  | begun (q : Sequencer) (hq : q.phase = .check ∨ q.phase = .busInit) : AcceptOut s (s.begin q)

theorem acceptChannel_out (s : State) (m : Mode) (chip channel : Nat) (enabled : Bool) :
    AcceptOut s (s.acceptChannel m chip channel enabled) := by
  unfold State.acceptChannel
  split
  · exact .gave _ rfl
  · exact .begun _ (.inl rfl)

theorem acceptWhole_out (s : State) (chip : Nat) (mode : ModeCode) (mask : Mask) :
    AcceptOut s (s.acceptWhole chip mode mask) := by
  unfold State.acceptWhole
  split
  · exact .gave _ rfl
  · split
    · exact .begun _ (.inl rfl)
    · exact .gave _ rfl

theorem acceptBroadcast_out (s : State) (mode : ModeCode) (mask : Mask) :
    AcceptOut s (s.acceptBroadcast mode mask) := by
  unfold State.acceptBroadcast
  split
  · exact .gave _ rfl
  · split
    · exact .begun _ (.inl rfl)
    · exact .gave _ rfl

theorem acceptInit_out (s : State) : AcceptOut s s.acceptInit := by
  unfold State.acceptInit
  split
  · exact .gave _ rfl
  · exact .begun _ (.inr rfl)

/-- Accepting a host operation brings nothing else. -/
theorem accept_out {i : Instr} (hi : isHostOperation i = true) (s : State) : OnNext (AcceptOut s) (accept i s) := by
  cases i with
  | init => exact onNext_next.2 (acceptInit_out s)
  | setProtection chip channel enabled => exact onNext_next.2 (acceptChannel_out s .protect chip channel enabled)
  | setDiagnostics chip channel enabled => exact onNext_next.2 (acceptChannel_out s .diag chip channel enabled)
  | setOutput chip channel enabled => exact onNext_next.2 (acceptChannel_out s .output chip channel enabled)
  | setMultiplePins chip mode mask => exact onNext_next.2 (acceptWhole_out s chip mode mask)
  | targeted chip mode mask => exact onNext_next.2 (acceptWhole_out s chip mode mask)
  | broadcast mode mask => exact onNext_next.2 (acceptBroadcast_out s mode mask)
  | cacheGet chip mode => exact onNext_execCacheGet .same .gave chip mode
  | reservedOp | wrProtect | wrDiag | wrOutput | reply | encode | decode | rev16 | cacheSet | transact
  | tInit | tSelect | tDeselect | tTransfer | enablePwm => cases hi

/-- A request at the operation level; a reserved selector changes nothing (R97). -/
theorem exec_decodeRequest_out (r : Request) (s : State) :
    OnNext (HostOut (decodeRequest r) s) (exec (decodeRequest r) s) := by
  obtain hi | ⟨op, hop⟩ := decodeRequest_cases r
  · exact exec_hostOut hi s
  · rw [hop]; exact onNext_next.2 .same

/-- A request at the event level; a reserved selector changes nothing (R97). -/
theorem accept_decodeRequest_out (r : Request) (s : State) :
    OnNext (AcceptOut s) (accept (decodeRequest r) s) := by
  obtain hi | ⟨op, hop⟩ := decodeRequest_cases r
  · exact accept_out hi s
  · rw [hop]; exact onNext_next.2 .same

/-! ### What a step can bring -/

/-- What a step can bring, by what stands first on the inputs (R231). -/
inductive StepOut (s : State) : State → Prop
  | waited (hi : s.env.inputs = []) (hb : s.busy = false) : StepOut s s.clearResult
  | advanced (hi : ∀ e rest, s.env.inputs ≠ .env e :: rest) (hb : s.busy = true) : StepOut s (advance s.clearResult)
  | disturbed (e : EnvEvent) (rest : List Input) (hi : s.env.inputs = .env e :: rest) :
      StepOut s ((s.take rest).disturb e)
  | ran (r : Request) (rest : List Input) (t : State) (hi : s.env.inputs = .port (.request r) :: rest)
      (hb : s.busy = false) (hr : HostOut (decodeRequest r) (s.take rest) t) : StepOut s t
  | accepted (r : Request) (rest : List Input) (t : State) (hi : s.env.inputs = .port (.request r) :: rest)
      (hb : s.busy = false) (ha : AcceptOut (s.take rest) t) : StepOut s t
  | served (p : Port) (rest : List Input) (t : State) (hi : s.env.inputs = .port p :: rest)
      (hs : ServeOut (s.take rest) p t) : StepOut s t

/-- A step brings nothing else. -/
theorem step_out (s : State) : OnNext (StepOut s) (step s) := by
  unfold step runNext
  split
  · next hi =>
    split
    · next hb => exact onNext_next.2 (.advanced (by simp [hi]) hb)
    · next hb => exact onNext_next.2 (.waited hi (Bool.eq_false_iff.2 hb))
  · next hi => exact onNext_next.2 (.disturbed _ _ hi)
  · next r rest hi =>
    split
    · next hb => exact onNext_next.2 (.advanced (by simp [hi]) hb)
    · next hb =>
      have hb := Bool.eq_false_iff.2 hb
      unfold State.perform
      split
      · exact fun t ht => .ran r rest t hi hb (exec_decodeRequest_out r _ t ht)
      · exact fun t ht => .accepted r rest t hi hb (accept_decodeRequest_out r _ t ht)
  · next p rest hp hi => exact fun t ht => .served p rest t hi (serve_cases hp ht)

/-! ### What a transfer leaves alone -/

@[simp] theorem State.tTransfer_cache (s : State) (w : Word) : (s.tTransfer w).2.cache = s.cache := by
  rw [(tTransfer_shape s w).1]

@[simp] theorem State.tTransfer_initialized (s : State) (w : Word) :
    (s.tTransfer w).2.initialized = s.initialized := by
  rw [(tTransfer_shape s w).1]

@[simp] theorem State.tTransfer_seq (s : State) (w : Word) : (s.tTransfer w).2.seq = s.seq := by
  rw [(tTransfer_shape s w).1]

/-! ### Operations as transactions -/

/-- A transaction by itself is one transaction and its record (R161). -/
theorem transactAlone_eq_finish (s : State) (k : Nat) (m : Mode) (v : Mask) :
    ∃ e f, s.transactAlone k m v = (s.start.transact k m v).2.finish e f := by
  unfold State.transactAlone
  dsimp only
  split <;> exact ⟨_, _, rfl⟩

/-- A broadcast is its loop and its record (R171). -/
theorem broadcastAll_eq_finish (s : State) (m : Mode) (v : Mask) :
    ∃ e f, s.broadcastAll m v = (broadcastLoop m v s.cfg.nChips 1 s.start).2.finish e f := by
  unfold State.broadcastAll
  dsimp only
  split <;> exact ⟨_, _, rfl⟩

/-! An operation at once leaves the sequencer alone (assumption 35). -/

@[simp] theorem State.transactAlone_seq (s : State) (k : Nat) (m : Mode) (v : Mask) :
    (s.transactAlone k m v).seq = s.seq := by
  obtain ⟨e, f, heq⟩ := transactAlone_eq_finish s k m v
  obtain ⟨_, _, _, _, _, hseq⟩ := transact_env s.start k m v
  rw [heq, State.finish_seq, hseq, State.start_seq]

@[simp] theorem State.broadcastAll_seq (s : State) (m : Mode) (v : Mask) : (s.broadcastAll m v).seq = s.seq := by
  obtain ⟨e, f, heq⟩ := broadcastAll_eq_finish s m v
  obtain ⟨_, _, _, _, _, hseq⟩ := broadcastLoop_env m v s.cfg.nChips 1 s.start
  rw [heq, State.finish_seq, hseq, State.start_seq]

@[simp] theorem State.initBus_seq (s : State) : s.initBus.seq = s.seq := by
  unfold State.initBus
  dsimp only
  split <;> rfl

/-- What every transaction with a chip of the loop keeps, the loop of a broadcast keeps. -/
theorem broadcastLoop_keeps {P : State → Prop} {m : Mode} {v : Mask} : ∀ {n lo : Nat},
    (∀ k s, lo ≤ k → k < lo + n → P s → P (s.transact k m v).2) → ∀ {s}, P s → P (broadcastLoop m v n lo s).2
  | 0, _, _, _, hs => hs
  | n + 1, lo, keeps, s, hs => by
    have rest {t : State} (ht : P t) : P (broadcastLoop m v n (lo + 1) t).2 :=
      broadcastLoop_keeps (fun k u h1 h2 => keeps k u (by omega) (by omega)) ht
    have sent : P (s.transact lo m v).2 := keeps lo s le_rfl (by omega) hs
    simp only [broadcastLoop]
    split
    · exact rest hs
    · split
      · exact rest sent
      · exact sent

/-! ### The select lines (R27) -/

/-- With the line of one chip asserted that chip is the only one. -/
theorem assertedFrom_chip {c : Config} {k : Nat} (hk : c.hasChip k = true) :
    assertedFrom 1 ((List.replicate c.nChips false).set (k - 1) true) = [k] := by
  obtain ⟨h1, h2⟩ := hasChip_iff.1 hk
  rw [assertedFrom_one _ _ _ (by omega), Nat.add_sub_cancel' h1]

/-- Under the invariant only the line of `cur` can be asserted. -/
theorem State.Inv.eq_of_asserted {s : State} (h : s.Inv) {j : Nat} (hj : s.cs[j]? = some true) :
    j = s.seq.cur - 1 := by
  have none_up : (List.replicate s.cfg.nChips false)[j]? ≠ some true := by simp [List.getElem?_replicate]
  rw [h.lines, State.properLines] at hj
  split at hj
  · by_contra hne
    rw [List.getElem?_set_ne (Ne.symm hne)] at hj
    exact none_up hj
  · exact absurd hj none_up

/-- Around the transfer the line of `cur` alone is asserted. -/
theorem State.Inv.lines_of_lineUp {s : State} (h : s.Inv) (hl : s.seq.phase.lineUp = true) :
    s.cs = (List.replicate s.cfg.nChips false).set (s.seq.cur - 1) true := by
  rw [h.lines, State.properLines, if_pos hl]

/-- A line is up only while a chip is handled. -/
theorem Phase.onChip_of_lineUp {p : Phase} (h : p.lineUp = true) : p.onChip = true := by
  cases p with
  | transfer | deselect => rfl
  | idle | busInit | check | select | update | done => cases h

/-- Settles O55: the four clauses are read off from the lines of the invariant. -/
theorem selectLinesAreExclusive : Obligations.SelectLinesAreExclusive := by
  intro s h
  refine ⟨fun hb => (h.quiet hb).lines, fun j k hj hk => ?_, fun hp => ?_, fun k hb h1 h2 => ?_⟩
  · rw [h.eq_of_asserted hj, h.eq_of_asserted hk]
  · have hl : s.seq.phase.lineUp = true := by rcases hp with hp | hp <;> rw [hp] <;> rfl
    rw [h.lines_of_lineUp hl]
    exact assertedFrom_chip (h.chipValid (Phase.onChip_of_lineUp hl)).2
  · rw [State.tSelect_cs, (h.quiet hb).lines]
    exact assertedFrom_chip (hasChip_iff.2 ⟨h1, h2⟩)

/-! ### Who moves `initialized` (R25) -/

@[simp] theorem State.transact_initialized (s : State) (k : Nat) (m : Mode) (v : Mask) :
    (s.transact k m v).2.initialized = s.initialized := by
  unfold State.transact
  dsimp only
  split <;> simp

@[simp] theorem broadcastLoop_initialized (m : Mode) (v : Mask) (n k : Nat) (s : State) :
    (broadcastLoop m v n k s).2.initialized = s.initialized :=
  broadcastLoop_keeps (P := (·.initialized = s.initialized))
    (fun k t _ _ ht => (t.transact_initialized k m v).trans ht) rfl

/-- Of the host operations only INIT moves it, and only from 0. -/
theorem HostOut.initialized {i : Instr} {s t : State} (h : HostOut i s t) :
    t.initialized = s.initialized ∨ s.initialized = false ∧ i = .init := by
  cases h with
  | same | gave => exact .inl rfl
  | transacted k m v =>
    obtain ⟨e, f, heq⟩ := transactAlone_eq_finish s k m v
    simp [heq]
  | broadcasted m v =>
    obtain ⟨e, f, heq⟩ := broadcastAll_eq_finish s m v
    simp [heq]
  | initialised hi _ hn => exact .inr ⟨hn, hi⟩

/-- Accepting a request does not move it. -/
theorem AcceptOut.initialized {s t : State} (h : AcceptOut s t) : t.initialized = s.initialized := by
  cases h <;> rfl

/-- Serving another port does not move it. -/
theorem ServeOut.initialized {s t : State} {p : Port} (h : ServeOut s p t) : t.initialized = s.initialized := by
  cases h <;> rfl

@[simp] theorem State.nextChip_initialized (s : State) : s.nextChip.initialized = s.initialized := by
  unfold State.nextChip
  split <;> rfl

/-- Of the phases only `BUSINIT` moves it. -/
theorem advance_initialized {s : State} (hp : s.seq.phase ≠ .busInit) : (advance s).initialized = s.initialized := by
  have unlessHung {t : State} (ht : t.initialized = s.initialized) :
      (if s.env.hung then s else t).initialized = s.initialized := by
    split
    · rfl
    · exact ht
  unfold advance
  cases hq : s.seq.phase with
  | idle | done => rfl
  | busInit => exact absurd hq hp
  | check =>
    show s.phaseCheck.initialized = _
    unfold State.phaseCheck
    dsimp only
    split
    · exact State.nextChip_initialized _
    · rfl
  | select => exact unlessHung rfl
  | transfer => exact unlessHung (s.tTransfer_initialized _)
  | deselect =>
    refine unlessHung ?_
    unfold State.phaseDeselect
    dsimp only
    split <;> rfl
  | update =>
    show s.phaseUpdate.initialized = _
    unfold State.phaseUpdate
    split <;> simp

/-- Selector 0 alone selects INIT (R94). -/
theorem op_eq_of_decodeRequest_init {r : Request} (h : decodeRequest r = .init) : r.op = 0#4 := by
  unfold decodeRequest at h
  split at h
  · next hop => exact BitVec.eq_of_toNat_eq hop
  all_goals cases h

/-- A step leaves `initialized` alone, or an INIT in flight or presented moves it from 0, or reset clears it. -/
theorem step_initialized {s t : State} (h : s.Inv) (ht : step s = .next t) :
    t.initialized = s.initialized ∨
    (s.initialized = false ∧
      (s.seq.phase = .busInit ∨ ∃ r rest, s.env.inputs = .port (.request r) :: rest ∧ r.op = 0#4)) ∨
    (t.initialized = false ∧ ∃ rest, s.env.inputs = .env .reset :: rest) := by
  cases step_out s t ht with
  | waited => exact .inl rfl
  | advanced =>
    by_cases hp : s.seq.phase = .busInit
    · exact .inr (.inl ⟨h.busInitBefore hp, .inl hp⟩)
    · exact .inl (advance_initialized (s := s.clearResult) hp)
  | disturbed e rest hi =>
    cases e with
    | reset => exact .inr (.inr ⟨rfl, rest, hi⟩)
    | transportHangs => exact .inl rfl
    | chipChanges k regs =>
      refine .inl ?_
      unfold State.disturb
      dsimp only
      split <;> rfl
  | ran r rest _ hi _ hr =>
    obtain hkept | ⟨hn, hinit⟩ := hr.initialized
    · exact .inl hkept
    · exact .inr (.inl ⟨hn, .inr ⟨r, rest, hi, op_eq_of_decodeRequest_init hinit⟩⟩)
  | accepted _ _ _ _ _ ha => exact .inl ha.initialized
  | served _ _ _ _ hs => exact .inl hs.initialized

/-- Settles O50: `step_initialized`, read in both directions. -/
theorem onlyInitAndResetMoveInitialized : Obligations.OnlyInitAndResetMoveInitialized := by
  intro s t h ht
  obtain hkept | ⟨hn, hinit⟩ | ⟨hz, hreset⟩ := step_initialized h ht
  · exact ⟨fun h0 h1 => by simp [hkept, h0] at h1, fun h1 h0 => by simp [hkept, h1] at h0⟩
  · exact ⟨fun _ _ => hinit, fun h1 _ => by simp [hn] at h1⟩
  · exact ⟨fun _ h1 => by simp [hz] at h1, fun _ _ => hreset⟩

/-! ### Who writes the cache (R24) -/

/-- If the cache is no longer `c`, an ok transfer stands in the trace. -/
def State.AccountsFor (s : State) (c : List ChipState) : Prop :=
  s.cache ≠ c → ∃ w a, Event.transfer w (.ok a) ∈ s.trace

/-- A transaction answered `fail` leaves the cache alone (R161). -/
theorem transact_cache_of_fail {s : State} (hn : s.nextTransfer = .fail) (k : Nat) (m : Mode) (v : Mask) :
    (s.transact k m v).2.cache = s.cache := by
  have ha : ((s.tSelect k).tTransfer (wireWord (s.cfg.code m) v)).1 = .fail := hn
  unfold State.transact
  simp [ha]

/-- A transaction writes the cache only with an ok transfer in its trace. -/
theorem transact_accountsFor {c : List ChipState} {s : State} (h : s.AccountsFor c) (k : Nat) (m : Mode)
    (v : Mask) : (s.transact k m v).2.AccountsFor c := by
  intro hne
  rw [transact_trace]
  cases hn : s.nextTransfer with
  | ok r => exact ⟨_, r, List.mem_append_right _ (.tail _ (.head _))⟩
  | fail =>
    rw [transact_cache_of_fail hn] at hne
    obtain ⟨w, a, hmem⟩ := h hne
    exact ⟨w, a, List.mem_append_left _ hmem⟩

/-- An operation that ends hands its trace over with its record. -/
theorem finish_okTransfer {c : List ChipState} {s : State} (h : s.AccountsFor c) {e : Status} {f : Option Nat}
    (hne : (s.finish e f).cache ≠ c) : ∃ r w a, (s.finish e f).result = some r ∧ .transfer w (.ok a) ∈ r.trace := by
  obtain ⟨w, a, hmem⟩ := h hne
  exact ⟨_, w, a, rfl, hmem⟩

/-- A transaction by itself writes the cache only after an ok transfer. -/
theorem transactAlone_okTransfer {s : State} {k : Nat} {m : Mode} {v : Mask}
    (hne : (s.transactAlone k m v).cache ≠ s.cache) :
    ∃ r w a, (s.transactAlone k m v).result = some r ∧ .transfer w (.ok a) ∈ r.trace := by
  have start : s.start.AccountsFor s.cache := fun hne => absurd rfl hne
  obtain ⟨e, f, heq⟩ := transactAlone_eq_finish s k m v
  rw [heq] at hne ⊢
  exact finish_okTransfer (transact_accountsFor start k m v) hne

/-- So does a broadcast. -/
theorem broadcastAll_okTransfer {s : State} {m : Mode} {v : Mask} (hne : (s.broadcastAll m v).cache ≠ s.cache) :
    ∃ r w a, (s.broadcastAll m v).result = some r ∧ .transfer w (.ok a) ∈ r.trace := by
  have start : s.start.AccountsFor s.cache := fun hne => absurd rfl hne
  obtain ⟨e, f, heq⟩ := broadcastAll_eq_finish s m v
  rw [heq] at hne ⊢
  have loop : (broadcastLoop m v s.cfg.nChips 1 s.start).2.AccountsFor s.cache :=
    broadcastLoop_keeps (P := (·.AccountsFor s.cache)) (fun k t _ _ ht => transact_accountsFor ht k m v) start
  exact finish_okTransfer loop hne

/-- Before initialisation INIT writes the masks that the cache holds already (R36). -/
theorem initBus_cache {s : State} (h : s.Inv) (hn : s.initialized = false) : s.initBus.cache = s.cache := by
  unfold State.initBus
  dsimp only
  split
  · exact (h.zeroBefore hn).symm
  · rfl

/-- A host operation writes the cache only after an ok transfer. -/
theorem HostOut.okTransfer {i : Instr} {s t : State} (h : s.Inv) (ht : HostOut i s t) (hne : t.cache ≠ s.cache) :
    ∃ r w a, t.result = some r ∧ .transfer w (.ok a) ∈ r.trace := by
  cases ht with
  | same | gave => exact absurd rfl hne
  | transacted => exact transactAlone_okTransfer hne
  | broadcasted => exact broadcastAll_okTransfer hne
  | initialised _ _ hn => exact absurd (initBus_cache h hn) hne

/-- The instructions that are no host operations, but for CACHE_SET and TRANSACT, leave the cache alone. -/
theorem exec_keepsCache {i : Instr} (hi : isHostOperation i = false) (hset : ∀ k m v, i ≠ .cacheSet k m v)
    (htr : ∀ k m v, i ≠ .transact k m v) (s : State) : OnNext (·.cache = s.cache) (exec i s) := by
  cases i with
  | cacheSet k m v => exact absurd rfl (hset k m v)
  | transact k m v => exact absurd rfl (htr k m v)
  | encode mode mask =>
    show OnNext _ (execEncode mode mask s)
    unfold execEncode
    split <;> exact onNext_next.2 rfl
  | tInit => exact onNext_unlessFault rfl
  | tSelect | tDeselect => exact onNext_inChain (onNext_unlessFault rfl)
  | tTransfer w => exact onNext_unlessFault (s.tTransfer_cache w)
  | reservedOp | wrProtect | wrDiag | wrOutput | reply | decode | rev16 | enablePwm => exact onNext_next.2 rfl
  | init | setProtection | setDiagnostics | setOutput | setMultiplePins | targeted | broadcast | cacheGet => cases hi

/-- TRANSACT by itself writes the cache only after an ok transfer. -/
theorem execTransact_okTransfer (k : Nat) (m : Mode) (v : Mask) (s : State) :
    OnNext (fun t => t.cache ≠ s.cache → ∃ r w a, t.result = some r ∧ .transfer w (.ok a) ∈ r.trace)
      (execTransact k m v s) :=
  onNext_inChain (onNext_unlessFault transactAlone_okTransfer)

/-- Settles O49: by the kind of the instruction. -/
theorem cacheIsWrittenOnlyAfterAnOkTransfer : Obligations.CacheIsWrittenOnlyAfterAnOkTransfer := by
  intro s t i h ht hne
  cases hi : isHostOperation i with
  | true => exact .inr ((exec_hostOut hi s t ht).okTransfer h hne)
  | false =>
    by_cases hset : ∃ k m v, i = .cacheSet k m v
    · exact .inl hset
    · by_cases htr : ∃ k m v, i = .transact k m v
      · obtain ⟨k, m, v, rfl⟩ := htr
        exact .inr (execTransact_okTransfer k m v s t ht hne)
      · push Not at hset htr
        exact absurd (exec_keepsCache hi hset htr s t ht) hne

/-! ### The cache and the words sent (R23): events -/

/-- After the history `h` the line asserted is `line`, and the masks last sent are those of `l`. -/
def Tracks (c : Config) (h : List Event) (line : Option Nat) (l : List ChipState) : Prop :=
  ∀ k m, c.hasChip k = true → lastSent c k m h = (line, (chipEntry l k).get m)

theorem lastSent_concat (c : Config) (k : Nat) (m : Mode) (h : List Event) (e : Event) :
    lastSent c k m (h ++ [e]) = sentStep c k m (lastSent c k m h) e := by
  simp [lastSent]

/-- Every mask of a zeroed list is 0x00 (R36). -/
theorem get_chipEntry_zero (n k : Nat) (m : Mode) : (chipEntry (List.replicate n .zero) k).get m = 0#8 := by
  have hz : chipEntry (List.replicate n .zero) k = .zero := by
    simp only [chipEntry, List.getD_eq_getElem?_getD, List.getElem?_replicate]
    split <;> rfl
  rw [hz]
  cases m <;> rfl

theorem tracks_nil (c : Config) : Tracks c [] none (List.replicate c.nChips .zero) := by
  intro k m _
  rw [get_chipEntry_zero]
  rfl

section
variable {c : Config} {h : List Event} {line : Option Nat} {l : List ChipState}

theorem Tracks.select (ht : Tracks c h line l) (j : Nat) : Tracks c (h ++ [.select j]) (some j) l := by
  intro k m hk
  rw [lastSent_concat, ht k m hk, sentStep]

theorem Tracks.deselect (ht : Tracks c h line l) (j : Nat) : Tracks c (h ++ [.deselect j]) none l := by
  intro k m hk
  rw [lastSent_concat, ht k m hk, sentStep]

theorem Tracks.transfer_fail (ht : Tracks c h line l) (w : Word) : Tracks c (h ++ [.transfer w .fail]) line l := by
  intro k m hk
  rw [lastSent_concat, ht k m hk, sentStep]

theorem Tracks.init_fail (ht : Tracks c h line l) : Tracks c (h ++ [.init .fail]) line l := by
  intro k m hk
  rw [lastSent_concat, ht k m hk, sentStep]

/-- A successful initialisation forgets what was sent (R23). -/
theorem Tracks.init_ok (ht : Tracks c h line l) :
    Tracks c (h ++ [.init .ok]) line (List.replicate c.nChips .zero) := by
  intro k m hk
  rw [lastSent_concat, ht k m hk, sentStep, get_chipEntry_zero]

/-- A wire word sent with the line of chip `j` asserted counts for that chip and its mode alone: the codes of different
modes differ (R85). -/
theorem Tracks.transfer_ok {j : Nat} (ht : Tracks c h (some j) l) (hc : c.wf = true) (hl : l.length = c.nChips)
    (hj : c.hasChip j = true) (m : Mode) (v : Mask) (r : Word) :
    Tracks c (h ++ [.transfer (wireWord (c.code m) v) (.ok r)]) (some j) (setEntry l j m v) := by
  intro k m' hk
  obtain ⟨_, hcode, hmask⟩ := pack_fields (c.code m) v
  obtain ⟨hj1, hj2⟩ := hasChip_iff.1 hj
  rw [lastSent_concat, ht k m' hk, get_chipEntry_setEntry m m' v hj1 (hl ▸ hj2) (hasChip_iff.1 hk).1]
  simp only [sentStep, wireWord, rev16_rev16, hcode, hmask, code_eq_iff hc, Option.some.injEq]
  by_cases hsame : k = j ∧ m' = m
  · rw [if_pos hsame, if_pos ⟨hsame.1.symm, hsame.2.symm⟩]
  · rw [if_neg hsame, if_neg fun hs => hsame ⟨hs.1.symm, hs.2.symm⟩]

end

/-! ### The cache and the words sent: operations at once -/

/-- With no line asserted the cache holds what was sent. -/
def State.Tracked (s : State) (h : List Event) : Prop := Tracks s.cfg (h ++ s.trace) none s.cache

/-- A transaction leaves the block ready for another. -/
theorem transact_quiet {s : State} (hq : s.Quiet) {k : Nat} (hk : s.cfg.hasChip k = true) (m : Mode) (v : Mask) :
    (s.transact k m v).2.Quiet := by
  cases hn : s.nextTransfer with
  | ok r => rw [State.transact_ok hq hk hn]; exact okAfter_quiet hq k m v r
  | fail =>
    rw [State.transact_fail hq hn]
    exact ⟨hq.legal, hq.cacheLength, by simpa using hq.periphLength, hq.lines⟩

/-- A transaction keeps the cache at what was sent: an ok answer counts on both sides, a failed one on neither. -/
theorem transact_tracked {s : State} (hq : s.Quiet) {k : Nat} (hk : s.cfg.hasChip k = true) (m : Mode) (v : Mask)
    {h : List Event} (ht : s.Tracked h) : (s.transact k m v).2.Tracked h := by
  have selected := Tracks.select ht k
  cases hn : s.nextTransfer with
  | ok r =>
    rw [State.transact_ok hq hk hn]
    have sent := (selected.transfer_ok hq.legal hq.cacheLength hk m v r).deselect k
    simpa [State.Tracked, transactionEvents] using sent
  | fail =>
    rw [State.transact_fail hq hn]
    have sent := (selected.transfer_fail (wireWord (s.cfg.code m) v)).deselect k
    simpa [State.Tracked, transactionEvents] using sent

/-- Between the transactions of an operation with parameters `c`. -/
structure State.BetweenTransactions (s : State) (c : Config) (h : List Event) : Prop where
  cfg : s.cfg = c
  quiet : s.Quiet
  tracked : s.Tracked h

theorem transact_betweenTransactions {s : State} {c : Config} {h : List Event} (hs : s.BetweenTransactions c h)
    {k : Nat} (h1 : 1 ≤ k) (h2 : k < 1 + c.nChips) (m : Mode) (v : Mask) :
    (s.transact k m v).2.BetweenTransactions c h := by
  have hk : s.cfg.hasChip k = true := hasChip_iff.2 ⟨h1, by rw [hs.cfg]; omega⟩
  exact ⟨(s.transact_cfg k m v).trans hs.cfg, transact_quiet hs.quiet hk m v,
    transact_tracked hs.quiet hk m v hs.tracked⟩

/-- So the loop of a broadcast keeps the cache at what was sent. -/
theorem broadcastLoop_tracked {s : State} (hq : s.Quiet) (m : Mode) (v : Mask) {h : List Event} (ht : s.Tracked h) :
    (broadcastLoop m v s.cfg.nChips 1 s).2.Tracked h :=
  State.BetweenTransactions.tracked (broadcastLoop_keeps (P := (·.BetweenTransactions s.cfg h))
    (fun _ _ h1 h2 hs => transact_betweenTransactions hs h1 h2 m v) ⟨rfl, hq, ht⟩)

/-- The record of an operation that ends takes its events out of the trace and into the history. -/
theorem finish_tracked {s : State} {h : List Event} (ht : s.Tracked h) (e : Status) (f : Option Nat) :
    (s.finish e f).Tracked (h ++ (s.finish e f).lastTrace) := by
  simpa [State.Tracked, State.lastTrace] using ht

/-- A successful `T_INIT` zeroes both sides (R23, R190). -/
theorem tInit_ok_tracked {s : State} {h : List Event} (ht : s.Tracked h) (hn : s.nextInit = .ok) :
    s.tInit.2.initialise.Tracked h := by
  simpa [State.Tracked, State.tInit, hn] using Tracks.init_ok ht

/-- A failed one leaves both. -/
theorem tInit_fail_tracked {s : State} {h : List Event} (ht : s.Tracked h) (hn : s.nextInit = .fail) :
    s.tInit.2.Tracked h := by
  simpa [State.Tracked, State.tInit, hn] using Tracks.init_fail ht

/-- INIT keeps the cache at what was sent, whatever is answered. -/
theorem initBus_tracked {s : State} {h : List Event} (ht : s.start.Tracked h) :
    s.initBus.Tracked (h ++ s.initBus.lastTrace) := by
  unfold State.initBus
  dsimp only
  split
  · next hn => exact finish_tracked (tInit_ok_tracked ht hn) _ _
  · next hn => exact finish_tracked (tInit_fail_tracked ht hn) _ _

/-! ### The cache and the words sent: the sequencer -/

/-- `Reflects` speaks of the parameters, the cache, the sequencer and the history with the trace. -/
theorem State.Reflects.congr {s t : State} {h h' : List Event} (hs : s.Reflects h) (hcfg : t.cfg = s.cfg)
    (hcache : t.cache = s.cache) (hseq : t.seq = s.seq) (htrace : h' ++ t.trace = h ++ s.trace) : t.Reflects h' := by
  unfold State.Reflects State.sentView State.aheadOfCache at hs ⊢
  rw [hcfg, hcache, hseq, htrace]
  exact hs

/-- Before the answer the view is the cache itself. -/
theorem sentView_eq_cache {s : State} (hd : s.seq.phase ≠ .deselect) (hu : s.seq.phase ≠ .update) :
    s.sentView = s.cache := by
  have hahead : s.aheadOfCache = false := by
    unfold State.aheadOfCache
    split
    · next hp _ => exact absurd hp hd
    · next hp _ => exact absurd hp hu
    · rfl
  simp [State.sentView, hahead]

/-- After an ok answer the view holds the mask that is to be written (R33). -/
theorem sentView_of_ok {s : State} (hp : s.seq.phase = .deselect ∨ s.seq.phase = .update) {r : Word}
    (ha : s.seq.pendAns = .ok r) : s.sentView = setEntry s.cache s.seq.cur s.seq.pendMode s.seq.pendMask := by
  have hahead : s.aheadOfCache = true := by
    obtain hp | hp := hp <;> simp [State.aheadOfCache, hp, ha]
  simp [State.sentView, hahead]

/-- After a failed answer the view is the cache itself. -/
theorem sentView_of_fail {s : State} (ha : s.seq.pendAns = .fail) : s.sentView = s.cache := by
  have hahead : s.aheadOfCache = false := by simp [State.aheadOfCache, ha]
  simp [State.sentView, hahead]

/-- Where no line is up none is asserted. -/
theorem reflects_iff_of_lineDown {s : State} {h : List Event} (hl : s.seq.phase.lineUp = false) :
    s.Reflects h ↔ Tracks s.cfg (h ++ s.trace) none s.sentView := by
  simp [State.Reflects, Tracks, hl]

/-- Where a line is up it is that of `cur`. -/
theorem reflects_iff_of_lineUp {s : State} {h : List Event} (hl : s.seq.phase.lineUp = true) :
    s.Reflects h ↔ Tracks s.cfg (h ++ s.trace) (some s.seq.cur) s.sentView := by
  simp [State.Reflects, Tracks, hl]

/-- Where no line is up and no cache write is due, `Reflects` speaks of the cache itself. -/
theorem reflects_iff_tracked {s : State} {h : List Event} (hl : s.seq.phase.lineUp = false)
    (hu : s.seq.phase ≠ .update) : s.Reflects h ↔ s.Tracked h := by
  have hd : s.seq.phase ≠ .deselect := fun hp => by rw [hp] at hl; cases hl
  rw [reflects_iff_of_lineDown hl, sentView_eq_cache hd hu, State.Tracked]

/-- Between operations `Reflects` speaks of the cache itself (R33). -/
theorem reflects_iff_of_idle {s : State} {h : List Event} (hp : s.seq.phase = .idle) :
    s.Reflects h ↔ s.Tracked h :=
  reflects_iff_tracked (by rw [hp]; rfl) (by simp [hp])

theorem toDone_reflects {s : State} {h : List Event} (ht : s.Tracked h) (e : Status) (f : Option Nat) :
    (s.toDone e f).Reflects h :=
  (reflects_iff_tracked rfl (by simp)).2 ht

theorem nextChip_reflects {s : State} {h : List Event} (ht : s.Tracked h) : s.nextChip.Reflects h := by
  unfold State.nextChip
  split
  · exact (reflects_iff_tracked rfl (by simp)).2 ht
  · exact toDone_reflects ht _ _

section
variable {s : State} {h : List Event}

theorem phaseBusInit_reflects (ht : s.Tracked h) : s.phaseBusInit.Reflects h := by
  unfold State.phaseBusInit
  dsimp only
  split
  · next hn => exact toDone_reflects (tInit_ok_tracked ht hn) _ _
  · next hn => exact toDone_reflects (tInit_fail_tracked ht hn) _ _

theorem phaseCheck_reflects (ht : s.Tracked h) : s.phaseCheck.Reflects h := by
  unfold State.phaseCheck
  dsimp only
  split
  · exact nextChip_reflects ht
  · exact (reflects_iff_tracked rfl (by simp)).2 ht

theorem phaseSelect_reflects (ht : s.Tracked h) : s.phaseSelect.Reflects h := by
  refine (reflects_iff_of_lineUp rfl).2 ?_
  rw [sentView_eq_cache (by simp [State.phaseSelect]) (by simp [State.phaseSelect])]
  simpa [State.phaseSelect] using Tracks.select ht s.seq.cur

theorem State.phaseTransfer_seq (s : State) :
    s.phaseTransfer.seq = { s.seq with pendAns := s.nextTransfer, phase := .deselect } := by
  unfold State.phaseTransfer
  dsimp only
  rw [State.tTransfer_seq]
  rfl

theorem State.phaseTransfer_cache (s : State) : s.phaseTransfer.cache = s.cache := s.tTransfer_cache _

theorem State.phaseTransfer_trace (s : State) :
    s.phaseTransfer.trace = s.trace ++ [.transfer s.seq.pendWord s.nextTransfer] := tTransfer_trace s _

/-- The word answered ok is in the view of the cache before it is in the cache (R33). -/
theorem phaseTransfer_reflects (hs : s.Inv) (hp : s.seq.phase = .transfer) (hr : s.Reflects h) :
    s.phaseTransfer.Reflects h := by
  have hseq := s.phaseTransfer_seq
  have hword : s.seq.pendWord = wireWord (s.cfg.code s.seq.pendMode) s.seq.pendMask :=
    (hs.wordLatched (by rw [hp]; rfl)).1
  have hchip : s.cfg.hasChip s.seq.cur = true := (hs.chipValid (by rw [hp]; rfl)).2
  have ht : Tracks s.cfg (h ++ s.trace) (some s.seq.cur) s.cache := by
    rwa [reflects_iff_of_lineUp (by rw [hp]; rfl), sentView_eq_cache (by simp [hp]) (by simp [hp])] at hr
  rw [reflects_iff_of_lineUp rfl, State.phaseTransfer_cfg, State.phaseTransfer_trace, ← List.append_assoc, hseq]
  cases hn : s.nextTransfer with
  | ok r =>
    rw [sentView_of_ok (.inl rfl) (r := r) (by rw [hseq, hn]), State.phaseTransfer_cache, hseq, hword]
    exact ht.transfer_ok hs.legal hs.cacheLength hchip s.seq.pendMode s.seq.pendMask r
  | fail =>
    rw [sentView_of_fail (by rw [hseq, hn]), State.phaseTransfer_cache]
    exact ht.transfer_fail s.seq.pendWord

theorem phaseDeselect_reflects (hp : s.seq.phase = .deselect) (hr : s.Reflects h) : s.phaseDeselect.Reflects h := by
  have ht := Tracks.deselect ((reflects_iff_of_lineUp (by rw [hp]; rfl)).1 hr) s.seq.cur
  unfold State.phaseDeselect
  dsimp only
  split
  · next r ha =>
    rw [sentView_of_ok (.inl hp) ha, List.append_assoc] at ht
    rw [reflects_iff_of_lineDown rfl, sentView_of_ok (.inr rfl) (r := r) (by simpa using ha)]
    exact ht
  · next ha =>
    rw [sentView_of_fail ha, List.append_assoc] at ht
    exact toDone_reflects (s := s.tDeselect s.seq.cur) ht _ _

/-- The cache write makes the cache what the view was (R33). -/
theorem phaseUpdate_reflects (hp : s.seq.phase = .update) (hr : s.Reflects h) : s.phaseUpdate.Reflects h := by
  have ht := (reflects_iff_of_lineDown (by rw [hp]; rfl)).1 hr
  unfold State.phaseUpdate
  split
  · next ha =>
    rw [sentView_of_ok (.inr hp) ha] at ht
    exact nextChip_reflects ht
  · next ha =>
    rw [sentView_of_fail ha] at ht
    exact toDone_reflects ht _ _

/-- The record takes the events of the operation out of the trace and into the history. -/
theorem phaseDone_reflects (ht : s.Tracked h) : s.phaseDone.Reflects (h ++ s.phaseDone.lastTrace) :=
  (reflects_iff_of_idle rfl).2 (finish_tracked ht s.seq.pendStatus s.seq.pendFail)

/-! Only `DONE` returns a record. -/

@[simp] theorem State.nextChip_result (s : State) : s.nextChip.result = s.result := by
  unfold State.nextChip
  split <;> rfl

theorem State.phaseBusInit_result (s : State) : s.phaseBusInit.result = s.result := by
  unfold State.phaseBusInit
  dsimp only
  split <;> rfl

theorem State.phaseCheck_result (s : State) : s.phaseCheck.result = s.result := by
  unfold State.phaseCheck
  dsimp only
  split
  · exact State.nextChip_result _
  · rfl

theorem State.phaseTransfer_result (s : State) : s.phaseTransfer.result = s.result :=
  (tTransfer_env s s.seq.pendWord).2.2.2

theorem State.phaseDeselect_result (s : State) : s.phaseDeselect.result = s.result := by
  unfold State.phaseDeselect
  dsimp only
  split <;> rfl

theorem State.phaseUpdate_result (s : State) : s.phaseUpdate.result = s.result := by
  unfold State.phaseUpdate
  split <;> simp

/-- Where no record is returned the history stays. -/
theorem reflects_of_noRecord {t : State} (hn : t.result = none) (hr : t.Reflects h) :
    t.Reflects (h ++ t.lastTrace) := by
  simpa [State.lastTrace, hn] using hr

/-- Every phase keeps the agreement, with the history extended by the record that `DONE` returns. -/
theorem advance_reflects (hs : s.Inv) (hn : s.result = none) (hr : s.Reflects h) :
    (advance s).Reflects (h ++ (advance s).lastTrace) := by
  have phase {t : State} (ht : t.result = s.result) (hr : t.Reflects h) : t.Reflects (h ++ t.lastTrace) :=
    reflects_of_noRecord (ht.trans hn) hr
  have waits : s.Reflects (h ++ s.lastTrace) := phase rfl hr
  have call {t : State} (ht : t.result = s.result) (hr : t.Reflects h) :
      (if s.env.hung then s else t).Reflects (h ++ (if s.env.hung then s else t).lastTrace) := by
    split
    · exact waits
    · exact phase ht hr
  have tracked (hl : s.seq.phase.lineUp = false) (hu : s.seq.phase ≠ .update) : s.Tracked h :=
    (reflects_iff_tracked hl hu).1 hr
  unfold advance
  cases hp : s.seq.phase with
  | idle => exact waits
  | busInit =>
    exact call s.phaseBusInit_result (phaseBusInit_reflects (tracked (by rw [hp]; rfl) (by simp [hp])))
  | check => exact phase s.phaseCheck_result (phaseCheck_reflects (tracked (by rw [hp]; rfl) (by simp [hp])))
  | select => exact call rfl (phaseSelect_reflects (tracked (by rw [hp]; rfl) (by simp [hp])))
  | transfer => exact call s.phaseTransfer_result (phaseTransfer_reflects hs hp hr)
  | deselect => exact call s.phaseDeselect_result (phaseDeselect_reflects hp hr)
  | update => exact phase s.phaseUpdate_result (phaseUpdate_reflects hp hr)
  | done => exact phaseDone_reflects (tracked (by rw [hp]; rfl) (by simp [hp]))

end

/-! ### The cache and the words sent: steps -/

/-- An operation that starts in an idle block has no events yet. -/
theorem State.Reflects.start_tracked {s : State} {h : List Event} (hr : s.Reflects h) (hs : s.Inv)
    (hb : s.busy = false) : s.start.Tracked h := by
  have hp := hs.phase_idle hb
  have ht := (reflects_iff_of_idle hp).1 hr
  rwa [State.Tracked, (hs.idleEmpty hp).2] at ht

/-- A host operation at once keeps the agreement, with the history extended by its record (R23). -/
theorem HostOut.reflects {i : Instr} {s t : State} {h : List Event} (ht : HostOut i s t) (hs : s.Inv)
    (hb : s.busy = false) (hn : s.result = none) (hr : s.Reflects h) : t.Reflects (h ++ t.lastTrace) := by
  have hp := hs.phase_idle hb
  have quiet := hs.start_quiet hb
  have start := hr.start_tracked hs hb
  cases ht with
  | same => exact reflects_of_noRecord hn hr
  | gave r hempty => exact hr.congr rfl rfl rfl (by simp [State.lastTrace, hempty])
  | transacted k m v _ hk =>
    obtain ⟨e, f, heq⟩ := transactAlone_eq_finish s k m v
    rw [reflects_iff_of_idle (by rw [State.transactAlone_seq, hp]), heq]
    exact finish_tracked (transact_tracked quiet hk m v start) e f
  | broadcasted m v =>
    obtain ⟨e, f, heq⟩ := broadcastAll_eq_finish s m v
    rw [reflects_iff_of_idle (by rw [State.broadcastAll_seq, hp]), heq]
    exact finish_tracked (broadcastLoop_tracked quiet m v start) e f
  | initialised =>
    rw [reflects_iff_of_idle (by rw [State.initBus_seq, hp])]
    exact initBus_tracked start

/-- A request accepted at the event level keeps the agreement: an operation that begins has no events yet. -/
theorem AcceptOut.reflects {s t : State} {h : List Event} (ht : AcceptOut s t) (hs : s.Inv) (hb : s.busy = false)
    (hn : s.result = none) (hr : s.Reflects h) : t.Reflects (h ++ t.lastTrace) := by
  cases ht with
  | same => exact reflects_of_noRecord hn hr
  | gave r hempty => exact hr.congr rfl rfl rfl (by simp [State.lastTrace, hempty])
  | begun q hq =>
    have begun : (s.begin q).Tracked h := hr.start_tracked hs hb
    refine reflects_of_noRecord hn ((reflects_iff_tracked ?_ ?_).2 begun)
    · obtain hq | hq := hq <;> simp [hq, Phase.lineUp]
    · obtain hq | hq := hq <;> simp [hq]

/-- What stands on another port writes neither the cache nor the history. -/
theorem ServeOut.reflects {s t : State} {p : Port} {h : List Event} (ht : ServeOut s p t) (hn : s.result = none)
    (hr : s.Reflects h) : t.Reflects (h ++ t.lastTrace) := by
  cases ht with
  | took => exact reflects_of_noRecord hn (hr.congr rfl rfl rfl rfl)
  | gave r hempty => exact hr.congr rfl rfl rfl (by simp [State.lastTrace, hempty])
  | same => exact reflects_of_noRecord hn hr

/-- After reset no word was sent and every mask is 0x00 (R36). -/
theorem assertReset_reflects (s : State) : s.assertReset.Reflects [] :=
  (reflects_iff_of_idle rfl).2 (tracks_nil s.cfg)

/-- The other events of the environment touch neither the cache nor the history. -/
theorem disturb_reflects {s : State} {h : List Event} {e : EnvEvent} (he : e ≠ .reset) (hn : s.result = none)
    (hr : s.Reflects h) : (s.disturb e).Reflects (h ++ (s.disturb e).lastTrace) := by
  cases e with
  | reset => exact absurd rfl he
  | transportHangs => exact reflects_of_noRecord hn (hr.congr rfl rfl rfl rfl)
  | chipChanges k regs =>
    unfold State.disturb
    dsimp only
    split
    · exact reflects_of_noRecord hn (hr.congr rfl rfl rfl rfl)
    · exact reflects_of_noRecord hn hr

/-- Reset forgets the history (R38). -/
theorem historyAfter_of_reset {s t : State} (h : List Event) {rest : List Input}
    (hi : s.env.inputs = .env .reset :: rest) : historyAfter s t h = [] := by
  simp [historyAfter, hi]

/-- Nothing else does. -/
theorem historyAfter_of_noReset {s t : State} (h : List Event) (hi : ∀ rest, s.env.inputs ≠ .env .reset :: rest) :
    historyAfter s t h = h ++ t.lastTrace := by
  unfold historyAfter
  split
  · next rest heq => exact absurd heq (hi rest)
  · rfl

/-- Settles O57: by what a step can bring. -/
theorem cacheReflectsTheWordsSent : Obligations.CacheReflectsTheWordsSent := by
  intro s t h hs hr ht
  have cleared : s.clearResult.Reflects h := hr.congr rfl rfl rfl rfl
  have taken (rest : List Input) : (s.take rest).Reflects h := hr.congr rfl rfl rfl rfl
  cases step_out s t ht with
  | waited hi =>
    rw [historyAfter_of_noReset h (by simp [hi])]
    exact reflects_of_noRecord rfl cleared
  | advanced hi =>
    rw [historyAfter_of_noReset h (hi .reset)]
    exact advance_reflects (clearResult_inv hs) rfl cleared
  | disturbed e rest hi =>
    by_cases he : e = .reset
    · subst he
      rw [historyAfter_of_reset h hi]
      exact assertReset_reflects (s.take rest)
    · rw [historyAfter_of_noReset h (by simp [hi, he])]
      exact disturb_reflects he rfl (taken rest)
  | ran r rest _ hi hb hout =>
    rw [historyAfter_of_noReset h (by simp [hi])]
    exact hout.reflects (take_inv hs rest) hb rfl (taken rest)
  | accepted r rest _ hi hb hout =>
    rw [historyAfter_of_noReset h (by simp [hi])]
    exact hout.reflects (take_inv hs rest) hb rfl (taken rest)
  | served p rest _ hi hout =>
    rw [historyAfter_of_noReset h (by simp [hi])]
    exact hout.reflects rfl (taken rest)

end Sys2Proof.Machine

/-! PROOFS for 30_encoding.md: the bus words (R95, R96) and what they write (D31), the reply word (R87). -/

namespace Sys2Proof

/-! ### The fields of a word in wire order -/

/-- A field of the logical word is the reversed field at the other end of the wire word (R82). -/
theorem extractLsb'_rev16 (w : Word) {lo n : Nat} (h : lo + n ≤ 16) :
    (rev16 w).extractLsb' lo n = (w.extractLsb' (16 - (lo + n)) n).reverse := by
  apply BitVec.eq_of_getLsbD_eq
  intro i hi
  have hlow : n - 1 - i < n := by omega
  have hbit : 15 - (lo + i) = 16 - (lo + n) + (n - 1 - i) := by omega
  rw [BitVec.getLsbD_reverse, BitVec.getMsbD, BitVec.getLsbD_extractLsb', BitVec.getLsbD_extractLsb',
    getLsbD_rev16 w (lo + i) (by omega), hbit]
  simp only [hi, hlow, decide_true, Bool.true_and]

/-- The address field is `1010b` exactly when the low nibble of the wire word is `0101b` (R82, R83). -/
theorem address_rev16_iff (w : Word) : (rev16 w).extractLsb' 12 4 = busAddress ↔ w.extractLsb' 0 4 = 0b0101#4 := by
  rw [extractLsb'_rev16 w (by decide), show (0b0101#4 : BitVec 4) = busAddress.reverse by decide]
  constructor <;> intro h
  · rw [← h, BitVec.reverse_reverse_eq]
  · rw [h, BitVec.reverse_reverse_eq]

/-- The code field is the second nibble of the wire word, reversed (R82). -/
theorem code_rev16 (w : Word) : (rev16 w).extractLsb' 8 4 = rev4 (w.extractLsb' 4 4) :=
  extractLsb'_rev16 w (by decide)

/-- The decoded mask is the high byte of the word, reversed (R87). -/
theorem frameDecode_eq_rev8 (w : Word) : frameDecode w = rev8 (w.extractLsb' 8 8) :=
  extractLsb'_rev16 w (by decide)

/-! ### What the decoder answers -/

/-- The command fields of a word are a mode and a mask exactly when it is their wire word (R95). -/
theorem commandFields_eq_ok_iff {c : Config} (hc : c.wf = true) (w : Word) (m : Mode) (v : Mask) :
    commandFields c (rev16 w) = .ok (m, v) ↔ w = wireWord (c.code m) v := by
  constructor
  · intro h
    by_cases hw : ∃ m' v', w = wireWord (c.code m') v'
    · obtain ⟨m', v', rfl⟩ := hw
      rw [commandFields_wireWord hc] at h
      cases h
      rfl
    · push Not at hw
      obtain ⟨e, he⟩ := commandFields_error_of_ne hc hw
      rw [he] at h
      cases h
  · rintro rfl
    exact commandFields_wireWord hc m v

/-- A word is refused for its address by the address field alone (R96; assumption 21). -/
theorem commandFields_eq_wrongAddress_iff (c : Config) (l : Word) :
    commandFields c l = .error .wrongAddress ↔ l.extractLsb' 12 4 ≠ busAddress := by
  unfold commandFields
  split
  · next h => split <;> simp [h]
  · next h => simp [h]

/-- A word with the right address is refused exactly when its code is that of no mode (R96; assumption 21). -/
theorem commandFields_eq_unknownModeCode_iff (c : Config) (l : Word) :
    commandFields c l = .error .unknownModeCode ↔
      l.extractLsb' 12 4 = busAddress ∧ c.modeOf (l.extractLsb' 8 4) = none := by
  unfold commandFields
  split
  · next h => split <;> simp_all
  · next h => simp [h]

/-- A wire word decodes to the write of its command fields. -/
theorem decodeWire_eq_ok_iff (c : Config) (w : Word) (i : Instr) :
    decodeWire c w = .ok i ↔ ∃ m v, i = writeInstr m v ∧ commandFields c (rev16 w) = .ok (m, v) := by
  unfold decodeWire decodeLogical
  split
  · next mv h => simp [h, Prod.ext_iff, eq_comm]
  · next e h => simp [h]

/-- A wire word is refused for what is wrong with its command fields. -/
theorem decodeWire_eq_error_iff (c : Config) (w : Word) (e : DecodeError) :
    decodeWire c w = .error e ↔ commandFields c (rev16 w) = .error e := by
  unfold decodeWire decodeLogical
  split
  · next mv h => simp [h]
  · next e' h => simp [h]

/-- Settles O11: the decoder's three answers, said of the fields of the wire word. -/
theorem wireWordsHaveOneMeaning : Obligations.WireWordsHaveOneMeaning := by
  intro c w hc
  refine ⟨fun i => ?_, ?_, ?_⟩
  · simp only [decodeWire_eq_ok_iff, commandFields_eq_ok_iff hc]
  · rw [decodeWire_eq_error_iff, commandFields_eq_wrongAddress_iff, ne_eq, address_rev16_iff]
  · rw [decodeWire_eq_error_iff, commandFields_eq_unknownModeCode_iff, address_rev16_iff, code_rev16]

end Sys2Proof

namespace Sys2Proof.Machine

/-! ### The words on the bus and the chips (D31) -/

/-- The bus word of a mode reaches the selected chips and does nothing else (assumption 8). -/
theorem exec_writeInstr (m : Mode) (v : Mask) (s : State) : exec (writeInstr m v) s = .next (s.chipsTake m v) := by
  cases m <;> rfl

/-- The entry of a chip after the selected chips are written. -/
theorem chipEntry_setSelected (m : Mode) (v : Mask) (bs : List Bool) {l : List ChipState} {k : Nat} (h1 : 1 ≤ k)
    (h2 : k ≤ l.length) :
    chipEntry (setSelected m v bs l) k = if bs.getD (k - 1) false then (chipEntry l k).set m v else chipEntry l k :=
  setSelected_getD m v bs l (k - 1) (by omega)

/-- Settles O40: register by register of the chips' list. -/
theorem busWordsWriteTheSelectedChips : Obligations.BusWordsWriteTheSelectedChips := by
  intro s m v hl
  refine ⟨setSelected m v s.cs s.env.periph, exec_writeInstr m v s, (setSelected_length m v _ _).trans hl,
    fun k h1 h2 => ?_⟩
  rw [chipEntry_setSelected m v s.cs h1 (by omega)]
  split
  · exact ⟨by simp, fun m' hne => by simp [hne]⟩
  · exact ⟨rfl, fun _ _ => rfl⟩

/-! ### The reply word -/

/-- Under the invariant a reply word makes one pair, for the chip whose line is up, or none (R87, R164). -/
theorem State.Inv.selectedReplies_eq {s : State} (h : s.Inv) (w : Word) :
    s.selectedReplies w = if s.seq.phase.lineUp then [(s.seq.cur, frameDecode w)] else [] := by
  rw [State.selectedReplies]
  split
  · next hl =>
    rw [h.lines_of_lineUp hl, assertedFrom_chip (h.chipValid (Phase.onChip_of_lineUp hl)).2]
    rfl
  · next hl =>
    rw [h.lines, State.properLines, if_neg hl, assertedFrom_replicate]
    rfl

/-- Settles O41: by the lines of the invariant; the mask is the high byte reversed. -/
theorem replyIsDecodedForTheSelectedChip : Obligations.ReplyIsDecodedForTheSelectedChip := by
  intro s w h
  rw [← frameDecode_eq_rev8, ← h.selectedReplies_eq]
  rfl

end Sys2Proof.Machine

/-! PROOFS for 40_codec.md: bit reversal (R110, R111), PACK (R112), ENCODE (R113 to R115), DECODE (R116, R117) and
their round trip (R118). -/

namespace Sys2Proof

/-! ### Bit reversal -/

/-- `rev16` commutes with an operation that makes each bit from the two bits in its place (R111). -/
theorem rev16_bitwise {op : Word → Word → Word} {f : Bool → Bool → Bool}
    (hop : ∀ a b : Word, ∀ i < 16, (op a b).getLsbD i = f (a.getLsbD i) (b.getLsbD i)) (a b : Word) :
    rev16 (op a b) = op (rev16 a) (rev16 b) := by
  apply BitVec.eq_of_getLsbD_eq
  intro i hi
  rw [getLsbD_rev16 _ i hi, hop _ _ _ (by omega), hop _ _ i hi, getLsbD_rev16 a i hi, getLsbD_rev16 b i hi]

/-- `rev16` is its own inverse (R111). -/
theorem rev16_involutive : Function.Involutive rev16 := rev16_rev16

/-- `rev16` swaps the two bytes and reverses each (R111). -/
theorem rev16_append (hi lo : Mask) : rev16 (hi ++ lo) = rev8 lo ++ rev8 hi := by
  rw [rev16, BitVec.reverse_append, BitVec.cast_eq, rev8, rev8]

/-- Settles O2: an involution is a bijection, and each bitwise operation acts place by place. -/
theorem rev16IsAnInvolution : Obligations.Rev16IsAnInvolution := by
  refine ⟨rev16_rev16, rev16_involutive.bijective, rev16_append, fun a b => ⟨?_, ?_, ?_, ?_⟩⟩
  · exact rev16_bitwise (f := and) (fun _ _ _ _ => BitVec.getLsbD_and) a b
  · exact rev16_bitwise (f := or) (fun _ _ _ _ => BitVec.getLsbD_or) a b
  · exact rev16_bitwise (f := xor) (fun _ _ _ _ => BitVec.getLsbD_xor) a b
  · exact rev16_bitwise (op := fun x _ => ~~~x) (f := fun x _ => !x) (fun _ _ _ h => by simp [h]) a a

/-! ### PACK -/

/-- PACK as the OR of the fields in their places (R112). -/
theorem pack_eq_or (code : ModeCode) (mask : Mask) :
    pack code mask = 0xA000#16 ||| (code.setWidth 16 <<< 8) ||| mask.setWidth 16 := by
  have h := BitVec.setWidth_append_append_eq_shiftLeft_setWidth_or (w''' := 16) (b := busAddress) (b' := code)
    (b'' := mask)
  rw [BitVec.setWidth_eq] at h
  exact h

/-- What is shifted past the width of a field has no bit in common with the field. -/
theorem shiftLeft_and_setWidth {n : Nat} (x : Word) (v : BitVec n) : (x <<< n) &&& v.setWidth 16 = 0#16 := by
  apply BitVec.eq_of_getLsbD_eq
  intro i hi
  by_cases hin : i < n
  · simp [hin]
  · simp [BitVec.getLsbD_of_ge v i (by omega)]

/-- PACK as the sum of the fields in their places: none overlaps another (R112). -/
theorem pack_eq_add (code : ModeCode) (mask : Mask) :
    pack code mask = 0xA000#16 + (code.setWidth 16 <<< 8) + mask.setWidth 16 := by
  have hcode : 0xA0#16 &&& code.setWidth 16 = 0#16 := shiftLeft_and_setWidth 0xA#16 code
  have hhigh : 0xA000#16 + (code.setWidth 16 <<< 8) = (0xA0#16 ||| code.setWidth 16) <<< 8 := by
    rw [show 0xA000#16 = 0xA0#16 <<< 8 by decide, BitVec.add_eq_or_of_and_eq_zero, BitVec.shiftLeft_or_distrib]
    rw [← BitVec.shiftLeft_and_distrib, hcode, BitVec.zero_shiftLeft]
  rw [hhigh, BitVec.add_eq_or_of_and_eq_zero _ _ (shiftLeft_and_setWidth _ mask), BitVec.shiftLeft_or_distrib]
  exact pack_eq_or code mask

/-- Settles O3: PACK is the concatenation by definition; no field overlaps another, so OR and sum agree with it. -/
theorem packJoinsDisjointFields : Obligations.PackJoinsDisjointFields :=
  fun code mask => ⟨rfl, pack_eq_or code mask, pack_eq_add code mask⟩

/-! ### The wire word (R114) -/

/-- A wire word is the mask, the code and the address, each reversed (R114). -/
theorem wireWord_eq_append (code : ModeCode) (mask : Mask) :
    wireWord code mask = rev8 mask ++ rev4 code ++ 0b0101#4 := by
  have haddress : busAddress.reverse = 0b0101#4 := by decide
  rw [wireWord, rev16, pack, BitVec.reverse_append, BitVec.reverse_append, haddress, BitVec.append_assoc]
  rfl

/-- Bit `i` of the mask stands at the other end of the wire word (R114). -/
theorem getLsbD_wireWord_mask (code : ModeCode) (mask : Mask) {i : Nat} (hi : i < 8) :
    (wireWord code mask).getLsbD (15 - i) = mask.getLsbD i := by
  rw [← getLsbD_frameDecode _ i hi, frameDecode_wireWord]

/-- Bit `j` of the code stands in the second nibble of the wire word, reversed (R114). -/
theorem getLsbD_wireWord_code (code : ModeCode) (mask : Mask) {j : Nat} (hj : j < 4) :
    (wireWord code mask).getLsbD (7 - j) = code.getLsbD j := by
  have hcode : rev4 ((wireWord code mask).extractLsb' 4 4) = code := by
    rw [← code_rev16, wireWord, rev16_rev16, (pack_fields code mask).2.1]
  have hlow : 3 - j < 4 := by omega
  rw [← hcode, getLsbD_rev4 _ j hj, BitVec.getLsbD_extractLsb', hcode, show 4 + (3 - j) = 7 - j by omega]
  simp only [hlow, decide_true, Bool.true_and]

/-- The low nibble of a wire word is the reversed address (R83, R114). -/
theorem wireWord_address (code : ModeCode) (mask : Mask) : (wireWord code mask).extractLsb' 0 4 = 0b0101#4 := by
  rw [← address_rev16_iff, wireWord, rev16_rev16]
  exact (pack_fields code mask).1

/-! ### The domain and the image of ENCODE -/

/-- Under legal parameters the recognised codes are the codes of the modes (R13). -/
theorem modeOf_ne_none_iff {c : Config} (hc : c.wf = true) (code : ModeCode) :
    c.modeOf code ≠ none ↔ ∃ m, code = c.code m := by
  simp only [Option.ne_none_iff_exists', modeOf_eq_some_iff hc]

/-- The pairs that ENCODE serves: three modes and 256 masks. -/
def encodablePairs : List (Mode × Fin 256) := [.protect, .diag, .output] ×ˢ List.finRange 256

/-- The wire words of the three modes' codes. -/
def Config.wireWords (c : Config) : List Word :=
  encodablePairs.map fun p => wireWord (c.code p.1) (BitVec.ofFin p.2)

/-- No pair is listed twice. -/
theorem encodablePairs_nodup : encodablePairs.Nodup := .product (by decide) (List.nodup_finRange 256)

/-- Every pair is listed. -/
theorem mem_encodablePairs (p : Mode × Fin 256) : p ∈ encodablePairs := by
  obtain ⟨m, v⟩ := p
  cases m <;> simp [encodablePairs]

/-- The list has a word for each of 3 modes and 256 masks. -/
theorem Config.length_wireWords (c : Config) : c.wireWords.length = 768 := by
  rw [wireWords, List.length_map, encodablePairs, List.length_product, List.length_finRange]
  rfl

/-- Under legal parameters different pairs have different wire words (R115). -/
theorem Config.wireWords_nodup {c : Config} (hc : c.wf = true) : c.wireWords.Nodup := by
  refine encodablePairs_nodup.map fun p q h => ?_
  obtain ⟨hcode, hmask⟩ := wireWord_inj h
  exact Prod.ext ((code_eq_iff hc).1 hcode) (BitVec.ofFin.inj hmask)

/-- The listed words are the wire words of a mode and a mask. -/
theorem Config.mem_wireWords_iff {c : Config} {w : Word} :
    w ∈ c.wireWords ↔ ∃ m v, w = wireWord (c.code m) v := by
  simp only [wireWords, List.mem_map]
  constructor
  · rintro ⟨⟨m, v⟩, _, rfl⟩
    exact ⟨m, _, rfl⟩
  · rintro ⟨m, v, rfl⟩
    exact ⟨(m, v.toFin), mem_encodablePairs _, rfl⟩

/-- Under legal parameters the listed words are the image of ENCODE (R115). -/
theorem Config.mem_wireWords_iff_frameEncode {c : Config} (hc : c.wf = true) {w : Word} :
    w ∈ c.wireWords ↔ ∃ mode mask, frameEncode c mode mask = some w := by
  simp only [mem_wireWords_iff, frameEncode_eq_some_iff, modeOf_ne_none_iff hc]
  constructor
  · rintro ⟨m, v, hw⟩
    exact ⟨c.code m, v, hw, m, rfl⟩
  · rintro ⟨_, v, hw, m, rfl⟩
    exact ⟨m, v, hw⟩

/-- Settles O5: wire words determine their fields, and the image is listed by mode and mask. -/
theorem encodeIsInjective : Obligations.EncodeIsInjective := by
  intro c hc
  refine ⟨fun a b m n w ha hb => ?_, c.wireWords, c.length_wireWords, Config.wireWords_nodup hc,
    fun w => Config.mem_wireWords_iff_frameEncode hc⟩
  obtain ⟨hwa, -⟩ := frameEncode_eq_some_iff.1 ha
  obtain ⟨hwb, -⟩ := frameEncode_eq_some_iff.1 hb
  exact wireWord_inj (hwa.symm.trans hwb)

end Sys2Proof

namespace Sys2Proof.Machine

/-! ### The codec's instructions -/

/-- ENCODE of a recognised code returns the wire word (R113). -/
theorem exec_encode_of_modeOf {s : State} {mode : ModeCode} {m : Mode} (h : s.cfg.modeOf mode = some m)
    (mask : Mask) :
    exec (.encode mode mask) s = .next (s.give { status := .ok, word := some (wireWord mode mask) }) := by
  simp only [exec, execEncode, frameEncode, h]

/-- ENCODE of any other code is refused (R113, R202). -/
theorem exec_encode_of_modeOf_none {s : State} {mode : ModeCode} (h : s.cfg.modeOf mode = none) (mask : Mask) :
    exec (.encode mode mask) s = .next (s.give { status := .invalidMode }) := by
  simp only [exec, execEncode, frameEncode, h, State.raise]

/-- DECODE returns the decoded mask (R116). -/
theorem exec_decode (w : Word) (s : State) :
    exec (.decode w) s = .next (s.give { status := .ok, mask := some (frameDecode w) }) := rfl

/-- REV16 returns the reversed word (R110; assumption 34). -/
theorem exec_rev16 (v : Word) (s : State) :
    exec (.rev16 v) s = .next (s.give { status := .ok, word := some (rev16 v) }) := rfl

/-- Settles O1: the bit laws of the three reversals, the examples by computation. -/
theorem rev16ReversesEveryBit : Obligations.Rev16ReversesEveryBit :=
  ⟨getLsbD_rev16, getLsbD_rev8, getLsbD_rev4, by decide, by decide, by decide, by decide, exec_rev16⟩

/-- Settles O4: by whether the code is recognised, with the closed form of the wire word. -/
theorem encodeGivesTheWireWord : Obligations.EncodeGivesTheWireWord := by
  intro s mode mask
  refine ⟨fun h => ?_, fun h => exec_encode_of_modeOf_none (modeOf_eq_none_iff.2 h) mask,
    wireWord_eq_append mode mask, fun _ => getLsbD_wireWord_mask mode mask,
    fun _ => getLsbD_wireWord_code mode mask, wireWord_address mode mask⟩
  have hrecognised : s.cfg.modeOf mode ≠ none := fun hnone => modeOf_eq_none_iff.1 hnone h
  obtain ⟨m, hm⟩ := Option.ne_none_iff_exists'.1 hrecognised
  exact exec_encode_of_modeOf hm mask

/-- Settles O6: the decoded byte is the high byte of the word reversed, the examples by computation. -/
theorem decodeTakesTheLowLogicalByte : Obligations.DecodeTakesTheLowLogicalByte :=
  ⟨exec_decode, frameDecode_eq_rev8, getLsbD_frameDecode, by decide, by decide, by decide, by decide⟩

/-- Settles O7: a mode's own code is recognised, and DECODE takes the mask out of the wire word. -/
theorem codecRoundTrip : Obligations.CodecRoundTrip := by
  intro s t m mask
  obtain ⟨m', hm⟩ := modeOf_code_isSome s.cfg m
  refine ⟨wireWord (s.cfg.code m) mask, exec_encode_of_modeOf hm mask, ?_⟩
  rw [exec_decode, frameDecode_wireWord]

end Sys2Proof.Machine

namespace Sys2Proof.Machine

/-! ### CACHE_SET -/

/-- On a chip of the chain CACHE_SET is the register write (R131). -/
theorem exec_cacheSet {s : State} {k : Nat} (hk : s.cfg.hasChip k = true) (m : Mode) (v : Mask) :
    exec (.cacheSet k m v) s = .next (s.cacheSet k m v) :=
  if_pos hk

/-- A mask read after CACHE_SET: the written one at the written place, the old one elsewhere. -/
theorem State.maskAt_cacheSet {s : State} {k j : Nat} (m m' : Mode) (v : Mask) (h1 : 1 ≤ k)
    (h2 : k ≤ s.cache.length) (hj : 1 ≤ j) :
    (s.cacheSet k m v).maskAt j m' = if j = k ∧ m' = m then v else s.maskAt j m' :=
  get_chipEntry_setEntry m m' v h1 h2 hj

/-- Settles O18: by the rule for reading a mask after CACHE_SET, at the written place and elsewhere. -/
theorem cacheSetWritesOneMask : Obligations.CacheSetWritesOneMask := by
  intro s k m v hlen h1 h2
  have hread : ∀ j m', 1 ≤ j → (s.cacheSet k m v).maskAt j m' = if j = k ∧ m' = m then v else s.maskAt j m' :=
    fun j m' hj => State.maskAt_cacheSet m m' v h1 (hlen ▸ h2) hj
  refine ⟨s.cacheSet k m v, exec_cacheSet (hasChip_iff.2 ⟨h1, h2⟩) m v, rfl, ?_, ?_, ?_⟩
  · rw [State.cacheSet_cache, setEntry_length, hlen]
  · rw [hread k m h1, if_pos ⟨rfl, rfl⟩]
  · intro j m' hj _ hne
    rw [hread j m' hj, if_neg fun h => hne (Prod.ext h.1 h.2)]

end Sys2Proof.Machine

/-! PROOFS for 42_controller.md: the single-channel operations and SET_MULTIPLE_PINS, with TARGETED as its equal
(R140 to R146), and how they relate (R150 to R152). All five come down to `AsksFor`: an accepted request for a mask is
`State.sendMask` of it, so the common body is argued about once. -/

namespace Sys2Proof.Machine

/-! ### The candidate mask (R144) -/

/-- Settles O22: by whether the channel's bit is set or cleared, from the bits of its one-hot value. -/
theorem candidateChangesOneBit : Obligations.CandidateChangesOneBit := by
  intro cur channel enabled j h1 _ hj
  have hbit := getLsbD_channelBit channel j h1 hj
  cases enabled with
  | true =>
    rw [candidate, if_pos rfl, BitVec.getLsbD_or, hbit]
    split <;> simp [*]
  | false =>
    rw [candidate, if_neg (by decide), BitVec.getLsbD_and, BitVec.getLsbD_not, hbit]
    split <;> simp [*]

/-- Bit of the candidate, for a channel that passed its check (R144). -/
theorem getLsbD_candidate (cur : Mask) {channel j : Nat} (enabled : Bool) (hc : channelValid channel = true)
    (hj : j < 8) :
    (candidate cur channel enabled).getLsbD j = if j = channel - 1 then enabled else cur.getLsbD j := by
  obtain ⟨h1, h2⟩ := channelValid_iff.1 hc
  exact candidateChangesOneBit cur channel enabled j h1 h2 hj

/-- Asking twice for the same bit asks for the same mask (R151). -/
@[simp] theorem candidate_candidate (cur : Mask) (channel : Nat) (enabled : Bool) :
    candidate (candidate cur channel enabled) channel enabled = candidate cur channel enabled := by
  cases enabled <;> simp [candidate, BitVec.or_assoc, BitVec.and_assoc]

/-! ### The checks, in their order (R208) -/

section
variable {s : State}

theorem validate_notInitialized (hi : s.initialized = false) (channel chip : Option Nat) (mode : Option ModeCode) :
    s.validate channel chip mode = some .notInitialized := by
  simp [State.validate, hi]

theorem validate_channelOutOfRange (hi : s.initialized = true) {channel : Nat} (hc : channelValid channel = false)
    (chip : Option Nat) (mode : Option ModeCode) :
    s.validate (some channel) chip mode = some .channelOutOfRange := by
  simp [State.validate, hi, hc]

theorem validate_unknownChip (hi : s.initialized = true) {channel : Option Nat}
    (hc : ∀ c ∈ channel, channelValid c = true) {chip : Nat} (hk : s.cfg.hasChip chip = false)
    (mode : Option ModeCode) : s.validate channel (some chip) mode = some .unknownChip := by
  cases channel <;> simp_all [State.validate]

theorem validate_invalidMode (hi : s.initialized = true) {chip : Nat} (hk : s.cfg.hasChip chip = true)
    {mode : ModeCode} (hm : s.cfg.modeOf mode = none) :
    s.validate none (some chip) (some mode) = some .invalidMode := by
  simp [State.validate, hi, hk, hm]

theorem validate_channel_eq_none (hi : s.initialized = true) {channel chip : Nat} (hc : channelValid channel = true)
    (hk : s.cfg.hasChip chip = true) : s.validate (some channel) (some chip) none = none := by
  simp [State.validate, hi, hc, hk]

theorem validate_mode_eq_none (hi : s.initialized = true) {chip : Nat} (hk : s.cfg.hasChip chip = true)
    {mode : ModeCode} {m : Mode} (hm : s.cfg.modeOf mode = some m) :
    s.validate none (some chip) (some mode) = none := by
  simp [State.validate, hi, hk, hm]

/-- With a valid channel and a recognised code, the checks of a channel operation are those of a whole-mask one. -/
theorem validate_channel_eq_mode {channel : Nat} (hc : channelValid channel = true) {mode : ModeCode} {m : Mode}
    (hm : s.cfg.modeOf mode = some m) (chip : Nat) :
    s.validate (some channel) (some chip) none = s.validate none (some chip) (some mode) := by
  simp [State.validate, hc, hm]

/-! ### The five operations -/

/-- The three single-channel operations have one body (R140 to R143). -/
theorem exec_channelOp (m : Mode) (chip channel : Nat) (enabled : Bool) (s : State) :
    exec (channelOp m chip channel enabled) s = s.setChannel m chip channel enabled := by
  cases m <;> rfl

/-- The two whole-mask operations have one body (R146, R165). -/
theorem exec_wholeMask {i : Instr} {chip : Nat} {mode : ModeCode} {mask : Mask}
    (hi : i = .setMultiplePins chip mode mask ∨ i = .targeted chip mode mask) (s : State) :
    exec i s = s.setWhole chip mode mask := by
  obtain rfl | rfl := hi <;> rfl

/-- A single-channel operation that fails a check gives its status and nothing else (R140, R209). -/
theorem setChannel_of_error (hb : s.busy = false) {chip channel : Nat} {e : Status}
    (hv : s.validate (some channel) (some chip) none = some e) (m : Mode) (enabled : Bool) :
    s.setChannel m chip channel enabled = .next (s.give { status := e }) := by
  rw [State.setChannel, whenIdle_of_idle hb, hv]; rfl

/-- So does a whole-mask operation (R146, R209). -/
theorem setWhole_of_error (hb : s.busy = false) {chip : Nat} {mode : ModeCode} {e : Status}
    (hv : s.validate none (some chip) (some mode) = some e) (mask : Mask) :
    s.setWhole chip mode mask = .next (s.give { status := e }) := by
  rw [State.setWhole, whenIdle_of_idle hb, hv]; rfl

/-- CACHE_GET of a chip of the chain and a recognised code (R130). -/
theorem exec_cacheGet (hb : s.busy = false) (hi : s.initialized = true) {chip : Nat}
    (hk : s.cfg.hasChip chip = true) {mode : ModeCode} {m : Mode} (hm : s.cfg.modeOf mode = some m) :
    exec (.cacheGet chip mode) s = .next (s.give { status := .ok, mask := some (s.maskAt chip m) }) := by
  show execCacheGet chip mode s = _
  rw [execCacheGet, whenIdle_of_idle hb, validate_mode_eq_none hi hk hm, State.maskOfCode, hm]; rfl

/-- An accepted request for a mask is `sendMask` of that mask, whichever of the five operations it is. -/
theorem exec_of_asksFor (hb : s.busy = false) {i : Instr} {k : Nat} {m : Mode} {v : Mask}
    (ha : AsksFor s i k m v) : exec i s = s.sendMask k m v := by
  obtain ⟨hi, hk, ⟨channel, enabled, hc, rfl, rfl⟩ | ⟨mode, hm, hwhole⟩⟩ := ha
  · rw [exec_channelOp, State.setChannel, whenIdle_of_idle hb, validate_channel_eq_none hi hc hk]
  · rw [exec_wholeMask hwhole, State.setWhole, whenIdle_of_idle hb, validate_mode_eq_none hi hk hm, hm]

/-! ### The common end: suppression or one transaction (R140 (d), (e), R145) -/

theorem sendMask_of_eq {k : Nat} {m : Mode} {v : Mask} (h : s.maskAt k m = v) :
    s.sendMask k m v = .next (s.give { status := .ok }) :=
  if_pos h

theorem sendMask_of_ne {k : Nat} {m : Mode} {v : Mask} (h : s.maskAt k m ≠ v) (hh : s.env.hung = false) :
    s.sendMask k m v = .next (s.transactAlone k m v) := by
  rw [State.sendMask, if_neg h, hh]; rfl

/-- Conversely, if a mask that differs is sent at all, the Transport answers and one transaction was made (R196). -/
theorem eq_transactAlone_of_sendMask {t : State} {k : Nat} {m : Mode} {v : Mask} (h : s.maskAt k m ≠ v)
    (ht : s.sendMask k m v = .next t) : s.env.hung = false ∧ t = s.transactAlone k m v := by
  rw [State.sendMask, if_neg h] at ht
  split at ht
  · cases ht
  · next hh => exact ⟨Bool.eq_false_of_not_eq_true hh, by cases ht; rfl⟩

/-- One transaction answered `ok(r)`, as a whole operation (R161). -/
theorem transactAlone_ok (h : s.Inv) (hb : s.busy = false) {k : Nat} (hk : s.cfg.hasChip k = true) {r : Word}
    (hn : s.nextTransfer = .ok r) (m : Mode) (v : Mask) : s.transactAlone k m v = s.sent k m v r := by
  obtain ⟨hreplies, htrace⟩ := h.idleEmpty (h.phase_idle hb)
  rw [State.transactAlone, State.transact_ok (h.start_quiet hb) hk hn]
  simp [State.sent, State.finish, State.start, State.dropTransfer, hreplies, htrace]

/-- One transaction answered `fail`, as a whole operation (R161, R211). -/
theorem transactAlone_fail (h : s.Inv) (hb : s.busy = false) (hn : s.nextTransfer = .fail) (k : Nat) (m : Mode)
    (v : Mask) : s.transactAlone k m v = s.notSent k m v := by
  obtain ⟨hreplies, htrace⟩ := h.idleEmpty (h.phase_idle hb)
  rw [State.transactAlone, State.transact_fail (h.start_quiet hb) hn]
  simp [State.notSent, State.finish, State.start, State.dropTransfer, hreplies, htrace]

/-- The record of a transaction holds its three events, one of them a transfer (R161). -/
theorem transactAlone_transferCount (s : State) (k : Nat) (m : Mode) (v : Mask) :
    ∃ r, (s.transactAlone k m v).result = some r ∧ transferCount r.trace = 1 := by
  obtain ⟨e, f, heq⟩ := transactAlone_eq_finish s k m v
  refine ⟨_, by rw [heq]; rfl, ?_⟩
  simp [transact_trace, transactionEvents, transferCount]

end

/-! ### Requests of an idle block that answers -/

/-- Nothing stands in the way of a set operation for chip `k` but its other operands: the invariant holds, no operation
is in flight (R28), the Transport answers (U6), the block is initialised and has the chip. -/
structure State.Serves (s : State) (k : Nat) : Prop where
  inv : s.Inv
  idle : s.busy = false
  answering : s.env.hung = false
  initialized : s.initialized = true
  chip : s.cfg.hasChip k = true

section
variable {s : State} {i : Instr} {k : Nat} {m : Mode} {v : Mask}

/-- A request for another mask than the cached one, answered `ok(r)` (R140 (e)). -/
theorem AsksFor.exec_sent (ha : AsksFor s i k m v) (hs : s.Serves k) (hne : s.maskAt k m ≠ v) {r : Word}
    (hn : s.nextTransfer = .ok r) : exec i s = .next (s.sent k m v r) := by
  rw [exec_of_asksFor hs.idle ha, sendMask_of_ne hne hs.answering, transactAlone_ok hs.inv hs.idle hs.chip hn]

/-- A request for another mask than the cached one, answered `fail` (R140 (e)). -/
theorem AsksFor.exec_notSent (ha : AsksFor s i k m v) (hs : s.Serves k) (hne : s.maskAt k m ≠ v)
    (hn : s.nextTransfer = .fail) : exec i s = .next (s.notSent k m v) := by
  rw [exec_of_asksFor hs.idle ha, sendMask_of_ne hne hs.answering, transactAlone_fail hs.inv hs.idle hn]

end

/-- Settles O23: an accepted request is `sendMask`, which has nothing to send. -/
theorem redundantRequestsAreSuppressed : Obligations.RedundantRequestsAreSuppressed := by
  intro s i chip m hb ha
  rw [exec_of_asksFor hb ha, sendMask_of_eq rfl]

/-- Settles O20: the errors by the order of the checks, the rest as an accepted request for the candidate. -/
theorem channelOperationsFollowTheCommonBody : Obligations.ChannelOperationsFollowTheCommonBody := by
  intro s m chip channel enabled h hb hh
  dsimp only
  refine ⟨fun hi => ?_, fun hi hc => ?_, fun hi hc1 hc8 hk => ?_, fun hi hc1 hc8 hk1 hkn => ?_⟩
  · exact (exec_channelOp ..).trans (setChannel_of_error hb (validate_notInitialized hi ..) ..)
  · have hv := validate_channelOutOfRange hi (channelValid_eq_false_iff.2 hc) (some chip) none
    exact (exec_channelOp ..).trans (setChannel_of_error hb hv ..)
  · have hc : ∀ c ∈ some channel, channelValid c = true := by rintro _ ⟨⟩; exact channelValid_iff.2 ⟨hc1, hc8⟩
    have hv := validate_unknownChip hi hc (hasChip_eq_false_iff.2 hk) none
    exact (exec_channelOp ..).trans (setChannel_of_error hb hv ..)
  · have hc := channelValid_iff.2 ⟨hc1, hc8⟩
    have hk : s.cfg.hasChip chip = true := hasChip_iff.2 ⟨hk1, hkn⟩
    have hs : s.Serves chip := ⟨h, hb, hh, hi, hk⟩
    have ha : AsksFor s (channelOp m chip channel enabled) chip m (candidate (s.maskAt chip m) channel enabled) :=
      ⟨hi, hk, .inl ⟨channel, enabled, hc, rfl, rfl⟩⟩
    exact ⟨fun heq => redundantRequestsAreSuppressed s _ chip m hb (heq ▸ ha),
      fun r hne hn => ha.exec_sent hs hne.symm hn, fun hne hn => ha.exec_notSent hs hne.symm hn⟩

/-- Settles O21: the errors by the order of the checks, the rest as an accepted request for the mask. -/
theorem wholeMaskOperationsSendTheMask : Obligations.WholeMaskOperationsSendTheMask := by
  intro s chip mode mask i h hb hh hwhole
  refine ⟨fun hi => ?_, fun hi hk => ?_, fun hi hk1 hkn hm => ?_, fun m hi hk1 hkn hm => ?_⟩
  · exact (exec_wholeMask hwhole s).trans (setWhole_of_error hb (validate_notInitialized hi ..) mask)
  · have hv := validate_unknownChip (channel := none) hi (by simp) (hasChip_eq_false_iff.2 hk) (some mode)
    exact (exec_wholeMask hwhole s).trans (setWhole_of_error hb hv mask)
  · have hv := validate_invalidMode hi (hasChip_iff.2 ⟨hk1, hkn⟩) hm
    exact (exec_wholeMask hwhole s).trans (setWhole_of_error hb hv mask)
  · have hk : s.cfg.hasChip chip = true := hasChip_iff.2 ⟨hk1, hkn⟩
    have hs : s.Serves chip := ⟨h, hb, hh, hi, hk⟩
    have ha : AsksFor s i chip m mask := ⟨hi, hk, .inr ⟨mode, hm, hwhole⟩⟩
    exact ⟨fun heq => redundantRequestsAreSuppressed s i chip m hb (heq ▸ ha),
      fun r hne hn => ha.exec_sent hs hne.symm hn, fun hne hn => ha.exec_notSent hs hne.symm hn⟩

/-! ### What one accepted request leaves (R150, R151) -/

section
variable {s t : State} {i : Instr} {k : Nat} {m : Mode} {v : Mask}

/-- The masks after an ok transaction (R140 (e)). -/
theorem maskAt_sent (hl : s.cache.length = s.cfg.nChips) (hk : s.cfg.hasChip k = true) (m : Mode) (v : Mask)
    (r : Word) : (s.sent k m v r).maskAt k m = v := by
  obtain ⟨h1, h2⟩ := hasChip_iff.1 hk
  exact (get_chipEntry_setEntry m m v h1 (hl ▸ h2) h1).trans (if_pos ⟨rfl, rfl⟩)

/-- An accepted request that ends with a record was suppressed, or was one transaction with a Transport that answers
ok or fail (R140 (d), (e)). -/
theorem AsksFor.cases (ha : AsksFor s i k m v) (h : s.Inv) (hb : s.busy = false) (ht : exec i s = .next t) :
    (s.maskAt k m = v ∧ t = s.give { status := .ok }) ∨
      (s.maskAt k m ≠ v ∧ s.env.hung = false ∧
        ((∃ r, t = s.sent k m v r) ∨ t = s.notSent k m v)) := by
  rw [exec_of_asksFor hb ha] at ht
  by_cases heq : s.maskAt k m = v
  · rw [sendMask_of_eq heq] at ht
    cases ht
    exact .inl ⟨heq, rfl⟩
  · obtain ⟨hh, rfl⟩ := eq_transactAlone_of_sendMask heq ht
    obtain ⟨_, hk, _⟩ := ha
    cases hn : s.nextTransfer with
    | ok r => exact .inr ⟨heq, hh, .inl ⟨r, transactAlone_ok h hb hk hn m v⟩⟩
    | fail => exact .inr ⟨heq, hh, .inr (transactAlone_fail h hb hn k m v)⟩

/-- However it ends, the parameters, `initialized` and `busy` stay. -/
theorem AsksFor.frame (ha : AsksFor s i k m v) (h : s.Inv) (hb : s.busy = false) (ht : exec i s = .next t) :
    t.cfg = s.cfg ∧ t.initialized = s.initialized ∧ t.busy = s.busy := by
  obtain ⟨_, rfl⟩ | ⟨_, _, ⟨_, rfl⟩ | rfl⟩ := ha.cases h hb ht <;> exact ⟨rfl, rfl, rfl⟩

/-- After OK the cache holds the mask asked for (R150). -/
theorem AsksFor.maskAt_of_ok (ha : AsksFor s i k m v) (h : s.Inv) (hb : s.busy = false) (ht : exec i s = .next t)
    {r : Result} (hr : t.result = some r) (hok : r.status = .ok) : t.maskAt k m = v := by
  have ⟨_, hk, _⟩ := ha
  obtain ⟨heq, rfl⟩ | ⟨_, _, ⟨w, rfl⟩ | rfl⟩ := ha.cases h hb ht
  · exact heq
  · exact maskAt_sent h.cacheLength hk m v w
  · cases hr; cases hok

/-- A request can be repeated while the cache holds the mask it started from or the one it asked for. -/
theorem AsksFor.again (ha : AsksFor s i k m v) (hcfg : t.cfg = s.cfg) (hi : t.initialized = s.initialized)
    (hmask : t.maskAt k m = s.maskAt k m ∨ t.maskAt k m = v) : AsksFor t i k m v := by
  obtain ⟨hinit, hk, hform⟩ := ha
  refine ⟨hi.trans hinit, hcfg ▸ hk, ?_⟩
  obtain ⟨channel, enabled, hc, rfl, hv⟩ | hwhole := hform
  · refine .inl ⟨channel, enabled, hc, rfl, ?_⟩
    obtain hmask | hmask := hmask <;> simp [hmask, hv]
  · exact .inr (hcfg ▸ hwhole)

end

/-- Settles O24: after OK the cache holds the candidate, whose bit is the requested one; out of range, by the order of
the checks. -/
theorem channelBitFollowsTheRequest : Obligations.ChannelBitFollowsTheRequest := by
  refine ⟨fun s t m chip channel enabled r h hb ht hr hok => ?_, fun s m chip channel enabled hb hi hc => ?_⟩
  · cases hv : s.validate (some channel) (some chip) none with
    | some e =>
      rw [exec_channelOp, setChannel_of_error hb hv] at ht
      cases ht; cases hr
      exact absurd hok (validate_isValidation hv).2.1
    | none =>
      obtain ⟨hi, hk⟩ := hasChip_of_validate hv
      have hc := channelValid_of_validate hv
      have ha : AsksFor s (channelOp m chip channel enabled) chip m (candidate (s.maskAt chip m) channel enabled) :=
        ⟨hi, hk, .inl ⟨channel, enabled, hc, rfl, rfl⟩⟩
      obtain ⟨_, hc8⟩ := channelValid_iff.1 hc
      rw [ha.maskAt_of_ok h hb ht hr hok, getLsbD_candidate _ _ hc (by omega), if_pos rfl]
  · have hv := validate_channelOutOfRange hi (channelValid_eq_false_iff.2 hc) (some chip) none
    exact (exec_channelOp ..).trans (setChannel_of_error hb hv ..)

/-- Settles O25: by how the first request ended; the repeated one asks for the same mask again. -/
theorem repeatedRequestTransactsOnlyAfterFailure : Obligations.RepeatedRequestTransactsOnlyAfterFailure := by
  intro s t i chip m v r h hb ha ht hr
  obtain ⟨hcfg, hi, hbusy⟩ := ha.frame h hb ht
  refine ⟨?_, fun hok => ?_, fun hfail => ?_⟩
  · obtain ⟨heq, rfl⟩ | ⟨hne, _, ⟨_, rfl⟩ | rfl⟩ := ha.cases h hb ht <;> cases hr
    · rw [if_pos heq]; rfl
    · rw [if_neg hne]; rfl
    · rw [if_neg hne]; rfl
  · have hmask := ha.maskAt_of_ok h hb ht hr hok
    have hagain := ha.again hcfg hi (.inr hmask)
    exact redundantRequestsAreSuppressed t i chip m (hbusy.trans hb) (hmask.symm ▸ hagain)
  · obtain ⟨_, rfl⟩ | ⟨hne, hh, ⟨_, rfl⟩ | rfl⟩ := ha.cases h hb ht
    · cases hr; cases hfail
    · cases hr; cases hfail
    · have hagain := ha.again hcfg hi (.inl rfl)
      have hanswering : (s.notSent chip m v).env.hung = false := by simpa [State.notSent] using hh
      obtain ⟨q, hq, hcount⟩ := transactAlone_transferCount (s.notSent chip m v) chip m v
      refine ⟨_, q, ?_, hq, hcount⟩
      rw [exec_of_asksFor (hbusy.trans hb) hagain, sendMask_of_ne (s := s.notSent chip m v) hne hanswering]

/-- Settles O26: the two make the same checks, and both send the candidate. -/
theorem channelOperationIsAWholeMaskOperation : Obligations.ChannelOperationIsAWholeMaskOperation := by
  intro s m chip channel enabled hwf h1 h8
  have hm : s.cfg.modeOf (s.cfg.code m) = some m := (modeOf_eq_some_iff hwf _ m).2 rfl
  rw [exec_channelOp, exec_wholeMask (.inl rfl), State.setChannel, State.setWhole,
    validate_channel_eq_mode (channelValid_iff.2 ⟨h1, h8⟩) hm, hm]

/-! ### A batch and the channels one by one (R152) -/

@[simp] theorem Env.dropTransfer_transferAnswers (e : Env) :
    e.dropTransfer.transferAnswers = e.transferAnswers.tail := by
  unfold Env.dropTransfer; split <;> simp_all

/-- Writing the mask an entry holds changes nothing. -/
theorem setEntry_get {l : List ChipState} {k : Nat} (m : Mode) (h1 : 1 ≤ k) (h2 : k ≤ l.length) :
    setEntry l k m ((chipEntry l k).get m) = l := by
  refine ext_chipEntry (setEntry_length ..) fun j hj _ => ?_
  rw [chipEntry_setEntry m _ h1 h2 hj, ChipState.set_get]
  split
  · next heq => rw [heq]
  · rfl

/-- Channels whose bit of `cur` is not the one of `mask`. -/
def Differs (cur mask : Mask) (channel : Nat) : Prop :=
  channelValid channel = true ∧ cur.getLsbD (channel - 1) ≠ mask.getLsbD (channel - 1)

/-- Masks that differ in no channel are equal. -/
theorem eq_of_not_differs {cur mask : Mask} (h : ∀ c, ¬Differs cur mask c) : cur = mask := by
  refine BitVec.eq_of_getLsbD_eq fun j hj => ?_
  by_contra hne
  exact h (j + 1) ⟨channelValid_iff.2 ⟨by omega, by omega⟩, hne⟩

/-- Once a channel has its bit of `mask`, the others are the ones left. -/
theorem differs_candidate_iff {cur mask : Mask} {c d : Nat} (hc : channelValid c = true) :
    Differs (candidate cur c (mask.getLsbD (c - 1))) mask d ↔ Differs cur mask d ∧ d ≠ c := by
  unfold Differs
  rw [and_assoc, and_congr_right_iff]
  intro hd
  obtain ⟨hc1, _⟩ := channelValid_iff.1 hc
  obtain ⟨hd1, hd8⟩ := channelValid_iff.1 hd
  rw [getLsbD_candidate cur _ hc (by omega)]
  by_cases hdc : d = c
  · simp [hdc]
  · rw [if_neg (by omega)]
    simp [hdc]

/-- A channel that differs makes the masks differ. -/
theorem Differs.ne {cur mask : Mask} {c : Nat} (h : Differs cur mask c) : cur ≠ mask :=
  fun heq => h.2 (by rw [heq])

/-- Asking for the bit that a differing channel should have changes the mask. -/
theorem Differs.ne_candidate {cur mask : Mask} {c : Nat} (h : Differs cur mask c) :
    cur ≠ candidate cur c (mask.getLsbD (c - 1)) := by
  intro heq
  have hstill : Differs (candidate cur c (mask.getLsbD (c - 1))) mask c := by rwa [← heq]
  exact ((differs_candidate_iff h.1).1 hstill).2 rfl

/-- `t` is `s` with mask `m` of chip `k` at `v`, at the price of `n` ok transfers; the chip has been written to if `v`
is not what the cache held. -/
structure State.BroughtTo (s t : State) (k : Nat) (m : Mode) (v : Mask) (n : Nat) : Prop where
  serves : t.Serves k
  cfg : t.cfg = s.cfg
  cache : t.cache = setEntry s.cache k m v
  chips : t.env.periph = if s.maskAt k m = v then s.env.periph else setEntry s.env.periph k m v
  answers : t.env.transferAnswers = s.env.transferAnswers.drop n

section
variable {s t u : State} {k : Nat} {m : Mode} {v w : Mask}

theorem State.Serves.cacheBounds (hs : s.Serves k) : 1 ≤ k ∧ k ≤ s.cache.length := by
  rw [hs.inv.cacheLength]; exact hasChip_iff.1 hs.chip

theorem State.Serves.periphBounds (hs : s.Serves k) : 1 ≤ k ∧ k ≤ s.env.periph.length := by
  rw [hs.inv.periphLength]; exact hasChip_iff.1 hs.chip

/-- After a suppressed request the next one can follow. -/
theorem State.Serves.give (hs : s.Serves k) (r : Result) : (s.give r).Serves k :=
  ⟨give_inv hs.inv r, hs.idle, hs.answering, hs.initialized, hs.chip⟩

/-- After an ok transaction the next request can follow. -/
theorem State.Serves.sent (hs : s.Serves k) (m : Mode) (v : Mask) (r : Word) : (s.sent k m v r).Serves k := by
  have h := hs.inv
  have hp := h.phase_idle hs.idle
  have inv : (s.sent k m v r).Inv :=
    { legal := h.legal
      cacheLength := (setEntry_length ..).trans h.cacheLength
      periphLength := (setEntry_length ..).trans h.periphLength
      lines := h.lines
      busyPhase := h.busyPhase
      idleEmpty := h.idleEmpty
      zeroBefore := fun hn => absurd (hs.initialized.symm.trans hn) (by decide)
      busInitBefore := h.busInitBefore
      chipValid := h.chipValid
      channelLatched := h.channelLatched
      wordLatched := fun hpend => by simp [State.sent, hp, Phase.pending] at hpend
      answeredOk := h.answeredOk }
  exact ⟨inv, hs.idle, by simpa [State.sent] using hs.answering, hs.initialized, hs.chip⟩

theorem State.Serves.broughtTo_self (hs : s.Serves k) (m : Mode) : s.BroughtTo s k m (s.maskAt k m) 0 :=
  ⟨hs, rfl, (setEntry_get m hs.cacheBounds.1 hs.cacheBounds.2).symm, (if_pos rfl).symm, rfl⟩

/-- The cache of the state brought about holds the mask. -/
theorem State.BroughtTo.maskAt {n : Nat} (h : s.BroughtTo t k m v n) (hs : s.Serves k) : t.maskAt k m = v := by
  obtain ⟨h1, h2⟩ := hs.cacheBounds
  rw [State.maskAt, h.cache, get_chipEntry_setEntry m m v h1 h2 h1, if_pos ⟨rfl, rfl⟩]

/-- Of two changes of one mask the second wins, if both change what the cache held before. -/
theorem State.BroughtTo.trans {n p : Nat} (h : s.BroughtTo t k m w n) (h' : t.BroughtTo u k m v p) (hs : s.Serves k)
    (hw : s.maskAt k m ≠ w) (hv : s.maskAt k m ≠ v) : s.BroughtTo u k m v (n + p) := by
  obtain ⟨h1, h2⟩ := hs.periphBounds
  refine ⟨h'.serves, h'.cfg.trans h.cfg, ?_, ?_, ?_⟩
  · rw [h'.cache, h.cache, setEntry_setEntry _ _ _ hs.cacheBounds.1 hs.cacheBounds.2]
  · rw [h'.chips, h.chips, h.maskAt hs, if_neg hw, if_neg hv, setEntry_setEntry _ _ _ h1 h2]
    split
    · next heq => rw [heq]
    · rfl
  · rw [h'.answers, h.answers, List.drop_drop]

/-- An accepted request whose transfer, if there is one, is answered ok brings the mask about. -/
theorem AsksFor.exec_broughtTo {i : Instr} (ha : AsksFor s i k m v) (hs : s.Serves k) {r : Word}
    (hn : s.nextTransfer = .ok r) :
    ∃ t, exec i s = .next t ∧ s.BroughtTo t k m v (if s.maskAt k m = v then 0 else 1) := by
  by_cases heq : s.maskAt k m = v
  · subst heq
    obtain ⟨_, hcfg, hcache, hchips, hanswers⟩ := hs.broughtTo_self m
    refine ⟨_, redundantRequestsAreSuppressed s i k m hs.idle ha, ?_⟩
    rw [if_pos rfl]
    exact ⟨hs.give _, hcfg, hcache, hchips, hanswers⟩
  · refine ⟨_, ha.exec_sent hs heq hn, ?_⟩
    rw [if_neg heq]
    exact ⟨hs.sent m v r, rfl, rfl, (if_neg heq).symm, by simp [State.sent]⟩

/-- One channel after another, for exactly those whose bit differs: each makes its transfer, and the mask is brought
about. -/
theorem runOps_channelOps (mask : Mask) : ∀ {channels : List Nat} {s : State} {rs : List Word}, s.Serves k →
    s.env.transferAnswers = rs.map .ok → channels.length ≤ rs.length → channels.Nodup →
    (∀ c, c ∈ channels ↔ Differs (s.maskAt k m) mask c) →
    ∃ t, runOps (channels.map fun c => channelOp m k c (mask.getLsbD (c - 1))) s = .next t ∧
      s.BroughtTo t k m mask channels.length
  | [], s, _, hs, _, _, _, hdiff => by
    have heq : s.maskAt k m = mask := eq_of_not_differs fun c hc => List.not_mem_nil ((hdiff c).2 hc)
    exact ⟨s, rfl, heq ▸ hs.broughtTo_self m⟩
  | c :: channels, s, r :: rs, hs, hrs, hlen, hnodup, hdiff => by
    obtain ⟨hnot, hnodup⟩ := List.nodup_cons.1 hnodup
    have hd : Differs (s.maskAt k m) mask c := (hdiff c).1 List.mem_cons_self
    have ha : AsksFor s (channelOp m k c (mask.getLsbD (c - 1))) k m
        (candidate (s.maskAt k m) c (mask.getLsbD (c - 1))) :=
      ⟨hs.initialized, hs.chip, .inl ⟨c, _, hd.1, rfl, rfl⟩⟩
    have hn : s.nextTransfer = .ok r := by simp [State.nextTransfer, Env.nextTransfer, hrs]
    obtain ⟨t, ht, hst⟩ := ha.exec_broughtTo hs hn
    rw [if_neg hd.ne_candidate] at hst
    have hrest : ∀ d, d ∈ channels ↔ Differs (t.maskAt k m) mask d := by
      intro d
      rw [hst.maskAt hs, differs_candidate_iff hd.1, ← hdiff d, List.mem_cons]
      constructor
      · exact fun hmem => ⟨.inr hmem, fun hdc => hnot (hdc ▸ hmem)⟩
      · exact fun ⟨hmem, hne⟩ => hmem.resolve_left hne
    obtain ⟨u, hu, htu⟩ := runOps_channelOps mask (rs := rs) hst.serves (by simp [hst.answers, hrs])
      (by simpa using hlen) hnodup hrest
    refine ⟨u, ?_, ?_⟩
    · simp only [List.map_cons, runOps, ht, hu]
    · rw [List.length_cons, Nat.add_comm]
      exact hst.trans htu hs hd.ne_candidate hd.ne
  | _ :: _, _, [], _, _, hlen, _, _ => by simp at hlen

end

/-- Settles O27: both ways bring the mask about, the one with a transfer for each differing channel, the other with at
most one. -/
theorem batchEqualsTheChannelsOneByOne : Obligations.BatchEqualsTheChannelsOneByOne := by
  intro s m chip mask rs h hb hh hi hk1 hkn hrs hanswers channels
  have hk : s.cfg.hasChip chip = true := hasChip_iff.2 ⟨hk1, hkn⟩
  have hs : s.Serves chip := ⟨h, hb, hh, hi, hk⟩
  have hm : s.cfg.modeOf (s.cfg.code m) = some m := (modeOf_eq_some_iff h.legal _ m).2 rfl
  have hdiff : ∀ c, c ∈ channels ↔ Differs (s.maskAt chip m) mask c := by
    intro c
    simp only [channels, Differs, channelValid_iff, List.mem_filter, List.mem_map, List.mem_range, decide_eq_true_eq]
    refine and_congr_left fun _ => ⟨?_, fun hc => ⟨c - 1, by omega, by omega⟩⟩
    rintro ⟨j, hj, rfl⟩
    omega
  have hnodup : channels.Nodup :=
    (List.nodup_range.map fun a b hab => Nat.succ.inj hab).filter _
  have hlen : channels.length ≤ rs.length := by
    rw [hrs]; exact (List.length_filter_le ..).trans (by simp)
  obtain ⟨t, ht, hst⟩ := runOps_channelOps mask hs hanswers hlen hnodup hdiff
  obtain ⟨r, rs', rfl⟩ := List.exists_cons_of_length_eq_add_one hrs
  have hn : s.nextTransfer = .ok r := by simp [State.nextTransfer, Env.nextTransfer, hanswers]
  have ha : AsksFor s (.setMultiplePins chip (s.cfg.code m) mask) chip m mask := ⟨hi, hk, .inr ⟨_, hm, .inl rfl⟩⟩
  obtain ⟨u, hu, hsu⟩ := ha.exec_broughtTo hs hn
  refine ⟨t, u, ht, hu, hst.cache.trans hsu.cache.symm, hst.chips.trans hsu.chips.symm, ?_,
    hst.serves.initialized.trans hsu.serves.initialized.symm, ?_, ?_, ?_⟩
  · rw [(hst.serves.inv.quiet hst.serves.idle).lines, (hsu.serves.inv.quiet hsu.serves.idle).lines, hst.cfg, hsu.cfg]
  · rw [hst.answers, hanswers, List.length_drop, List.length_map, hrs]
  · rw [hsu.answers, hanswers, List.length_drop, List.length_map, hrs]
    split <;> decide
  · rw [← hsu.cfg] at hm ⊢
    rw [exec_cacheGet hsu.serves.idle hsu.serves.initialized hsu.serves.chip hm, hsu.maskAt hs]

end Sys2Proof.Machine

/-! PROOFS for 43_chain.md: TRANSACT (R161), BROADCAST (R166 to R170, R179), what a trace looks like (R172, R174), and
the walk of phases (R177). A broadcast serves the chips that differ one after another, and a single-chip operation is
the loop of a broadcast over one chip, so both are argued about once. -/

namespace Sys2Proof.Machine

/-! ### TRANSACT (R161) -/

/-- TRANSACT on a chip of the chain, with a Transport that answers. -/
theorem exec_transact {s : State} {k : Nat} (hk : s.cfg.hasChip k = true) (hh : s.env.hung = false) (m : Mode)
    (v : Mask) : exec (.transact k m v) s = .next (s.transactAlone k m v) := by
  show execTransact k m v s = _
  rw [execTransact, if_pos hk, hh]; rfl

/-- Settles O28: TRANSACT is one transaction as a whole operation, with either answer. -/
theorem transactFollowsTheAnswer : Obligations.TransactFollowsTheAnswer := by
  intro s k m v h hb hh hk1 hkn
  have hk : s.cfg.hasChip k = true := hasChip_iff.2 ⟨hk1, hkn⟩
  rw [exec_transact hk hh]
  exact ⟨fun r hn => by rw [transactAlone_ok h hb hk hn], fun hn => by rw [transactAlone_fail h hb hn]⟩

/-! ### The end of an operation that served chips (R171) -/

/-- The status that goes with the index of the chip that failed, if there is one (R167, R169). -/
def endStatus : Option Nat → Status
  | none => .ok
  | some _ => .transportFailure

/-- The record of an operation that served chips (R171). -/
def conclude (p : Option Nat × State) : State := p.2.finish (endStatus p.1) p.1

@[simp] theorem conclude_result (p : Option Nat × State) : (conclude p).result =
    some { status := endStatus p.1, failIndex := p.1, replies := p.2.replies, trace := p.2.trace } := rfl

@[simp] theorem conclude_maskAt (p : Option Nat × State) : (conclude p).maskAt = p.2.maskAt := rfl

theorem endStatus_not_validation (o : Option Nat) : (endStatus o).isValidation = false := by
  cases o <;> rfl

theorem broadcastAll_eq_conclude (s : State) (m : Mode) (v : Mask) :
    s.broadcastAll m v = conclude (broadcastLoop m v s.cfg.nChips 1 s.start) := by
  unfold State.broadcastAll
  cases broadcastLoop m v s.cfg.nChips 1 s.start with
  | mk o t => cases o <;> rfl

/-! ### A loop over one chip (R179) -/

section
variable {s : State} {k : Nat} {m : Mode} {v : Mask}

/-- A loop over one chip that holds the mask ends with OK and nothing sent (R145, R168). -/
theorem conclude_loop_one_of_eq (h : s.Inv) (hb : s.busy = false) (heq : s.maskAt k m = v) :
    conclude (broadcastLoop m v 1 k s.start) = s.give { status := .ok } := by
  obtain ⟨hreplies, htrace⟩ := h.idleEmpty (h.phase_idle hb)
  have hloop : broadcastLoop m v 1 k s.start = (none, s.start) := if_pos heq
  rw [hloop]
  simp [conclude, State.finish, State.start, State.give, endStatus, hreplies, htrace]

/-- A loop over one chip that holds another mask is one transaction (R161). -/
theorem conclude_loop_one_of_ne (hne : s.maskAt k m ≠ v) :
    conclude (broadcastLoop m v 1 k s.start) = s.transactAlone k m v := by
  have hne : s.start.maskAt k m ≠ v := hne
  simp only [broadcastLoop, if_neg hne, State.transactAlone]
  split <;> rfl

/-- The common end of a single-chip operation is the loop of a broadcast over that chip. -/
theorem sendMask_eq_loop (h : s.Inv) (hb : s.busy = false) : s.sendMask k m v =
    if s.env.hung && decide (s.maskAt k m ≠ v) then .fault .transportHung
    else .next (conclude (broadcastLoop m v 1 k s.start)) := by
  by_cases heq : s.maskAt k m = v
  · rw [sendMask_of_eq heq, conclude_loop_one_of_eq h hb heq]
    simp [heq]
  · rw [conclude_loop_one_of_ne heq, State.sendMask, if_neg heq]
    simp [heq]

end

/-! ### The checks of BROADCAST (R166) -/

section
variable {s : State}

theorem exec_broadcast_of_error (hb : s.busy = false) {mode : ModeCode} {e : Status}
    (hv : s.validate none none (some mode) = some e) (mask : Mask) :
    exec (.broadcast mode mask) s = .next (s.give { status := e }) := by
  show execBroadcast mode mask s = _
  rw [execBroadcast, whenIdle_of_idle hb, hv]; rfl

/-- A broadcast that passes its checks is the loop over the whole chain (R166). -/
theorem exec_broadcast (hb : s.busy = false) (hi : s.initialized = true) {mode : ModeCode} {m : Mode}
    (hm : s.cfg.modeOf mode = some m) (mask : Mask) : exec (.broadcast mode mask) s =
      if s.env.hung && s.broadcastTransacts m mask then .fault .transportHung
      else .next (conclude (broadcastLoop m mask s.cfg.nChips 1 s.start)) := by
  have hv : s.validate none none (some mode) = none := by simp [State.validate, hi, hm]
  show execBroadcast mode mask s = _
  rw [execBroadcast, whenIdle_of_idle hb, hv, hm, ← broadcastAll_eq_conclude]

/-- With a Transport that answers it completes (R170). -/
theorem exec_broadcast_of_answering (hb : s.busy = false) (hi : s.initialized = true) {mode : ModeCode} {m : Mode}
    (hm : s.cfg.modeOf mode = some m) (hh : s.env.hung = false) (mask : Mask) : exec (.broadcast mode mask) s =
      .next (conclude (broadcastLoop m mask s.cfg.nChips 1 s.start)) := by
  rw [exec_broadcast hb hi hm, hh]; rfl

end

/-- Settles O29: by the order of the checks. -/
theorem broadcastChecksOnceBeforeTheFirstChip : Obligations.BroadcastChecksOnceBeforeTheFirstChip := by
  intro s mode mask hb
  refine ⟨fun hi => exec_broadcast_of_error hb (validate_notInitialized hi ..) mask, fun hi hm => ?_⟩
  exact exec_broadcast_of_error hb (by simp [State.validate, hi, hm]) mask

/-- Settles O36: both make the same checks, as chip 1 is in the chain, and both are the loop over chip 1. -/
theorem broadcastOnOneChipIsTargeted : Obligations.BroadcastOnOneChipIsTargeted := by
  intro s mode mask h h1
  have hk : s.cfg.hasChip 1 = true := hasChip_iff.2 ⟨le_rfl, h1.ge⟩
  have hchecks : s.validate none (some 1) (some mode) = s.validate none none (some mode) := by
    simp [State.validate, hk]
  cases hb : s.busy with
  | true =>
    have held (body : Host.Outcome State Fault Refusal) : s.whenIdle body = .next s := if_pos hb
    exact (held _).trans (held _).symm
  | false =>
    cases hv : s.validate none none (some mode) with
    | some e =>
      rw [exec_broadcast_of_error hb hv, exec_wholeMask (.inr rfl), setWhole_of_error hb (hchecks.trans hv)]
    | none =>
      have hi := initialized_of_validate hv
      cases hm : s.cfg.modeOf mode with
      | none => simp [State.validate, hi, hm] at hv
      | some m =>
        have ha : AsksFor s (.targeted 1 mode mask) 1 m mask := ⟨hi, hk, .inr ⟨mode, hm, .inr rfl⟩⟩
        have htransacts : s.broadcastTransacts m mask = decide (s.maskAt 1 m ≠ mask) := by
          simp [State.broadcastTransacts, h1]
        rw [exec_broadcast hb hi hm, exec_of_asksFor hb ha, sendMask_eq_loop h hb, htransacts, h1]

/-! ### A broadcast serves the chips that differ (R168) -/

/-- The chips `ks` one after another, up to the first whose transfer fails (R168, R169). -/
def serveChips (m : Mode) (v : Mask) : List Nat → State → Option Nat × State
  | [], s => (none, s)
  | k :: ks, s =>
    if (s.transact k m v).1 then serveChips m v ks (s.transact k m v).2 else (some k, (s.transact k m v).2)

/-- A transaction with chip `k` leaves the masks of the other chips alone (R172). -/
theorem maskAt_transact_of_ne {s : State} (hq : s.Quiet) {k j : Nat} (hk : s.cfg.hasChip k = true) (hj : 1 ≤ j)
    (hne : j ≠ k) (m m' : Mode) (v : Mask) : (s.transact k m v).2.maskAt j m' = s.maskAt j m' := by
  cases hn : s.nextTransfer with
  | ok r =>
    rw [State.transact_ok hq hk hn]
    exact (maskAt_okAfter hq hk m v r hj m').trans (if_neg fun h => hne h.1)
  | fail => rw [State.transact_fail hq hn]; rfl

/-- The loop over `n` chips from `k` serves those of them that do not hold the mask (R168). -/
theorem broadcastLoop_eq_serveChips (m : Mode) (v : Mask) : ∀ {n k : Nat} {s : State}, s.Quiet → 1 ≤ k →
    k + n ≤ s.cfg.nChips + 1 → broadcastLoop m v n k s =
      serveChips m v ((List.range' k n).filter fun j => decide (s.maskAt j m ≠ v)) s
  | 0, _, _, _, _, _ => rfl
  | n + 1, k, s, hq, hk1, hkn => by
    have hk : s.cfg.hasChip k = true := hasChip_iff.2 ⟨hk1, by omega⟩
    rw [List.range'_succ, broadcastLoop]
    by_cases heq : s.maskAt k m = v
    · rw [if_pos heq, broadcastLoop_eq_serveChips m v hq (by omega) (by omega)]
      simp [heq]
    · have hrest : ((List.range' (k + 1) n).filter fun j => decide ((s.transact k m v).2.maskAt j m ≠ v)) =
          (List.range' (k + 1) n).filter fun j => decide (s.maskAt j m ≠ v) := by
        refine List.filter_congr fun j hj => ?_
        obtain ⟨hj, _⟩ := List.mem_range'_1.1 hj
        rw [maskAt_transact_of_ne hq hk (by omega) (by omega)]
      rw [if_neg heq, List.filter_cons_of_pos (by simp [heq]), serveChips, ← hrest,
        ← broadcastLoop_eq_serveChips m v (transact_quiet hq hk m v) (by omega) (by rw [State.transact_cfg]; omega)]

/-- The chips to serve, as the loop meets them. -/
theorem chipsToServe_eq (s : State) (m : Mode) (v : Mask) :
    chipsToServe s m v = (List.range' 1 s.cfg.nChips).filter fun j => decide (s.maskAt j m ≠ v) := by
  rw [chipsToServe, List.range'_eq_map_range]
  simp only [Nat.add_comm 1]

theorem mem_chipsToServe {s : State} {m : Mode} {v : Mask} {k : Nat} :
    k ∈ chipsToServe s m v ↔ s.cfg.hasChip k = true ∧ s.maskAt k m ≠ v := by
  rw [chipsToServe_eq, List.mem_filter, List.mem_range'_1, hasChip_iff, decide_eq_true_eq]
  refine and_congr_left fun _ => and_congr_right fun _ => ?_
  omega

/-- They come in ascending order (R168). -/
theorem chipsToServe_sorted (s : State) (m : Mode) (v : Mask) : (chipsToServe s m v).Pairwise (· < ·) := by
  rw [chipsToServe_eq]
  exact List.Pairwise.filter _ List.pairwise_lt_range'

/-- The loop of a broadcast serves the chips to serve. -/
theorem broadcastLoop_eq_chipsToServe {s : State} (hq : s.start.Quiet) (m : Mode) (v : Mask) :
    broadcastLoop m v s.cfg.nChips 1 s.start = serveChips m v (chipsToServe s m v) s.start := by
  rw [chipsToServe_eq]
  exact broadcastLoop_eq_serveChips m v hq le_rfl (Nat.add_comm ..).le

/-! ### Served with ok answers (R166 to R168, R171) -/

/-- Served with listed ok answers, all chips of a list take the mask, and nothing fails. -/
theorem serveChips_of_ok (m : Mode) (v : Mask) {rest : List TransferAnswer} : ∀ {ks : List Nat} {rs : List Word}
    {s : State}, s.Quiet → (∀ k ∈ ks, s.cfg.hasChip k = true) → rs.length = ks.length →
    s.env.transferAnswers = rs.map .ok ++ rest →
    serveChips m v ks s = (none, { s with
      cache := takeAll m v s.cache ks
      env := { s.env with periph := takeAll m v s.env.periph ks, transferAnswers := rest }
      replies := s.replies ++ okReplies ks rs
      trace := s.trace ++ okEvents (wireWord (s.cfg.code m) v) ks rs })
  | [], [], s, _, _, _, hanswers => by
    simp only [List.map_nil, List.nil_append] at hanswers
    simp [serveChips, takeAll, okReplies, okEvents, ← hanswers]
  | k :: ks, r :: rs, s, hq, hks, hlen, hanswers => by
    obtain ⟨hk, hks⟩ := List.forall_mem_cons.1 hks
    have hn : s.nextTransfer = .ok r := by simp [State.nextTransfer, Env.nextTransfer, hanswers]
    have hdrop : s.env.dropTransfer = { s.env with transferAnswers := rs.map .ok ++ rest } := by
      simp [Env.dropTransfer, hanswers]
    have htr : s.transact k m v = (true, s.okAfter k m v r) := State.transact_ok hq hk hn m v
    have htail := serveChips_of_ok m v (rest := rest) (okAfter_quiet hq k m v r) hks
      (rs := rs) (by simpa using hlen) (by simp [State.okAfter, hdrop])
    rw [serveChips, htr, if_pos rfl, htail]
    simp [State.okAfter, State.dropTransfer, hdrop, takeAll, okReplies, okEvents]
  | [], _ :: _, _, _, _, hlen, _ => by simp at hlen
  | _ :: _, [], _, _, _, hlen, _ => by simp at hlen

/-- Settles O30: the broadcast serves the chips to serve, and all are answered ok. -/
theorem broadcastServesTheChipsThatDiffer : Obligations.BroadcastServesTheChipsThatDiffer := by
  intro s mode m mask rs rest h hb hh hi hm hlen hanswers ks w
  have hcode : mode = s.cfg.code m := (modeOf_eq_some_iff h.legal mode m).1 hm
  have hchips : ∀ k ∈ ks, s.start.cfg.hasChip k = true := fun k hk => (mem_chipsToServe.1 hk).1
  have hserved := serveChips_of_ok m mask (h.start_quiet hb) hchips hlen hanswers
  obtain ⟨hreplies, htrace⟩ := h.idleEmpty (h.phase_idle hb)
  rw [exec_broadcast_of_answering hb hi hm hh, broadcastLoop_eq_chipsToServe (h.start_quiet hb), hserved]
  simp [conclude, endStatus, State.finish, State.start, hreplies, htrace, ks, w, hcode]

/-! ### Served with whatever answers (R169, R170) -/

/-- The loop of a broadcast on the masks: no other mode's change; and either every chip holds the mask, or one that did
not fails, those before it hold the mask, and it and those after it hold what they held (R170). -/
theorem broadcastLoop_masks {s : State} (hq : s.start.Quiet) (m : Mode) (v : Mask) :
    let p := broadcastLoop m v s.cfg.nChips 1 s.start
    p.2.Quiet ∧ (∀ j m', 1 ≤ j → m' ≠ m → p.2.maskAt j m' = s.maskAt j m') ∧
      ((p.1 = none ∧ ∀ j, s.cfg.hasChip j = true → p.2.maskAt j m = v) ∨
        ∃ f, p.1 = some f ∧ s.cfg.hasChip f = true ∧ s.maskAt f m ≠ v ∧
          (∀ j, 1 ≤ j → j < f → p.2.maskAt j m = v) ∧ ∀ j, f ≤ j → p.2.maskAt j m = s.maskAt j m) := by
  obtain ⟨o, t, es, hloop, hquiet, _, _, hothers, _, _, _, hend⟩ :=
    broadcastLoop_spec m v s.cfg.nChips 1 s.start hq le_rfl (Nat.add_comm ..)
  rw [hloop]
  refine ⟨hquiet, fun j m' hj hm => hothers j m' hj (.inr hm), ?_⟩
  obtain ⟨ho, hall⟩ | ⟨f, ho, hf1, hfn, hne, hbefore, hafter⟩ := hend
  · refine .inl ⟨ho, fun j hj => ?_⟩
    obtain ⟨hj1, hjn⟩ := hasChip_iff.1 hj
    exact hall j hj1 (by omega)
  · exact .inr ⟨f, ho, hasChip_iff.2 ⟨hf1, by omega⟩, hne, hbefore, fun j hj => hafter j m hj⟩

/-- Settles O32: the broadcast is its loop and a record, which changes no mask. -/
theorem broadcastDoesNotRollBack : Obligations.BroadcastDoesNotRollBack := by
  intro s mode m mask h hb hh hi hm
  obtain ⟨_, hothers, hend⟩ := broadcastLoop_masks (h.start_quiet hb) m mask
  refine ⟨_, _, exec_broadcast_of_answering hb hi hm hh mask, conclude_result _,
    fun k m' hk _ hne => hothers k m' hk hne, ?_⟩
  obtain ⟨ho, hall⟩ | ⟨f, ho, hf, hne, hbefore, hafter⟩ := hend
  · exact .inl ⟨by rw [ho]; rfl, ho, fun k hk1 hkn => hall k (hasChip_iff.2 ⟨hk1, hkn⟩)⟩
  · obtain ⟨hf1, hfn⟩ := hasChip_iff.1 hf
    exact .inr ⟨f, by rw [ho]; rfl, ho, hf1, hfn, hne, hbefore, fun j hj _ => hafter j hj⟩

/-! ### The same broadcast again (R170, last sentence) -/

/-- Serving a list of chips selects no other chip, and the first one first. -/
theorem serveChips_selects (m : Mode) (v : Mask) : ∀ (ks : List Nat) (s : State), ∃ es,
    (serveChips m v ks s).2.trace = s.trace ++ es ∧ es.head? = ks.head?.map .select ∧
      ∀ j, Event.select j ∈ es → j ∈ ks
  | [], s => ⟨[], by simp [serveChips]⟩
  | k :: ks, s => by
    have htrace := transact_trace s k m v
    rw [serveChips]
    split
    · obtain ⟨es, hes, _, hselect⟩ := serveChips_selects m v ks (s.transact k m v).2
      refine ⟨_, by rw [hes, htrace, List.append_assoc], rfl, fun j hj => ?_⟩
      simp only [transactionEvents, List.cons_append, List.nil_append, List.mem_cons, reduceCtorEq, false_or,
        Event.select.injEq] at hj
      exact List.mem_cons.2 (hj.imp_right (hselect j))
    · refine ⟨_, htrace, rfl, fun j hj => ?_⟩
      simpa [transactionEvents] using Or.inl hj

/-- The least element of an ascending list stands first. -/
theorem head?_of_ascending {l : List Nat} {k : Nat} (hl : l.Pairwise (· < ·)) (hk : k ∈ l) (hmin : ∀ j ∈ l, k ≤ j) :
    l.head? = some k := by
  cases l with
  | nil => cases hk
  | cons a l =>
    have ha := hmin a List.mem_cons_self
    obtain rfl | hk := List.mem_cons.1 hk
    · rfl
    · exact absurd ((List.pairwise_cons.1 hl).1 k hk) (by omega)

theorem broadcastTransacts_of_ne {s : State} {k : Nat} {m : Mode} {v : Mask} (hk : s.cfg.hasChip k = true)
    (hne : s.maskAt k m ≠ v) : s.broadcastTransacts m v = true := by
  obtain ⟨hk1, hkn⟩ := hasChip_iff.1 hk
  refine List.any_eq_true.2 ⟨k - 1, List.mem_range.2 (by omega), ?_⟩
  rwa [Nat.sub_add_cancel hk1, decide_eq_true_eq]

/-- `t` is what a broadcast of `v` left that was accepted in `s` and failed at chip `k` (R169, R170). -/
structure FailedAt (s t : State) (m : Mode) (v : Mask) (k : Nat) : Prop where
  cfg : t.cfg = s.cfg
  initialized : t.initialized = s.initialized
  idle : t.busy = false
  answering : t.env.hung = false
  quiet : t.start.Quiet
  chip : s.cfg.hasChip k = true
  differed : s.maskAt k m ≠ v
  before : ∀ j, 1 ≤ j → j < k → t.maskAt j m = v
  after : ∀ j, k ≤ j → t.maskAt j m = s.maskAt j m

section
variable {s t : State} {m : Mode} {v : Mask} {k : Nat}

/-- A broadcast whose record has an index failed there, and the Transport answers, since that chip was sent to. -/
theorem failedAt_of_failIndex (h : s.Inv) (hb : s.busy = false) (hi : s.initialized = true) {mode : ModeCode}
    (hm : s.cfg.modeOf mode = some m) (ht : exec (.broadcast mode v) s = .next t) {r : Result}
    (hr : t.result = some r) (hk : r.failIndex = some k) : FailedAt s t m v k := by
  obtain ⟨hquiet, _, hend⟩ := broadcastLoop_masks (h.start_quiet hb) m v
  obtain ⟨hhung, _, hbusy, _, hcfg, _⟩ := broadcastLoop_env m v s.cfg.nChips 1 s.start
  rw [exec_broadcast hb hi hm] at ht
  split at ht
  · cases ht
  · next hcalls =>
    cases ht
    cases hr
    obtain ⟨ho, _⟩ | ⟨f, ho, hf, hne, hbefore, hafter⟩ := hend
    · cases ho.symm.trans hk
    · cases ho.symm.trans hk
      have hh : s.env.hung = false := by simpa [broadcastTransacts_of_ne hf hne] using hcalls
      exact ⟨hcfg, broadcastLoop_initialized .., hbusy.trans hb, hhung.trans hh,
        ⟨hquiet.legal, hquiet.cacheLength, hquiet.periphLength, hquiet.lines⟩, hf, hne, hbefore, hafter⟩

/-- What is left to serve are the chips from `k` on. -/
theorem FailedAt.chipsToServe_eq (ht : FailedAt s t m v k) :
    chipsToServe t m v = (chipsToServe s m v).filter fun j => decide (k ≤ j) := by
  rw [Machine.chipsToServe_eq, Machine.chipsToServe_eq, List.filter_filter, ht.cfg]
  refine List.filter_congr fun j hj => ?_
  by_cases hjk : k ≤ j
  · simp [hjk, ht.after j hjk]
  · simp [hjk, ht.before j (List.mem_range'_1.1 hj).1 (by omega)]

theorem FailedAt.le_of_mem (ht : FailedAt s t m v k) {j : Nat} (hj : j ∈ chipsToServe t m v) : k ≤ j := by
  rw [ht.chipsToServe_eq] at hj
  simpa using (List.mem_filter.1 hj).2

/-- And `k` is the first of them. -/
theorem FailedAt.head_chipsToServe (ht : FailedAt s t m v k) : (chipsToServe t m v).head? = some k := by
  refine head?_of_ascending (chipsToServe_sorted ..) (mem_chipsToServe.2 ⟨ht.cfg ▸ ht.chip, ?_⟩) fun _ => ht.le_of_mem
  rw [ht.after k le_rfl]
  exact ht.differed

end

/-- Settles O33: the failed broadcast left `k` as the first chip to serve, so the second one serves from `k` on. -/
theorem broadcastResumesAtTheFailedChip : Obligations.BroadcastResumesAtTheFailedChip := by
  intro s t mode m mask r k h hb hi hm ht hr hk
  have hfailed := failedAt_of_failIndex h hb hi hm ht hr hk
  refine ⟨hfailed.chipsToServe_eq, _, _, exec_broadcast_of_answering hfailed.idle (hfailed.initialized.trans hi)
    (hfailed.cfg ▸ hm) hfailed.answering mask, conclude_result _, ?_⟩
  obtain ⟨es, hes, hhead, hselects⟩ := serveChips_selects m mask (chipsToServe t m mask) t.start
  rw [hfailed.head_chipsToServe] at hhead
  obtain ⟨es, rfl⟩ := List.head?_eq_some_iff.1 hhead
  rw [broadcastLoop_eq_chipsToServe hfailed.quiet, hes]
  exact ⟨⟨es, rfl⟩, fun j hj => hfailed.le_of_mem (hselects j hj)⟩

/-! ### What a single-chip operation leaves alone (R172) -/

/-- Settles O34: by how the accepted request ended; it wrote one mask, if any. -/
theorem singleChipOperationsTouchNoOtherChip : Obligations.SingleChipOperationsTouchNoOtherChip := by
  intro s t i chip m v r h hb ha ht hr
  have ⟨_, hk, _⟩ := ha
  obtain ⟨hk1, hkn⟩ := hasChip_iff.1 hk
  obtain ⟨_, rfl⟩ | ⟨_, _, ⟨w, rfl⟩ | rfl⟩ := ha.cases h hb ht <;> cases hr
  · exact ⟨fun _ _ _ _ _ => rfl, nofun, nofun, rfl, rfl, rfl, rfl, rfl⟩
  · refine ⟨fun k' m' hk' _ hne => ?_, by simp [transactionEvents], by simp [transactionEvents], rfl, rfl, rfl, rfl,
      rfl⟩
    refine (get_chipEntry_setEntry m m' v hk1 (h.cacheLength ▸ hkn) hk').trans (if_neg fun heq => hne ?_)
    exact Prod.ext heq.1 heq.2
  · exact ⟨fun _ _ _ _ _ => rfl, by simp [transactionEvents], by simp [transactionEvents], rfl, rfl, rfl, rfl, rfl⟩

/-! ### An operation in flight (R175, R176) -/

/-- The block of `s`, busy with an operation whose cursor and latches are `q`. -/
def State.walking (s : State) (q : Sequencer) : State := { s with busy := true, seq := q }

/-- `DONE(e, f)` comes next. -/
structure Sequencer.Ends (q : Sequencer) (e : Status) (f : Option Nat) : Prop where
  phase : q.phase = .done
  status : q.pendStatus = e
  failIndex : q.pendFail = f

/-- Chip `k` is handled in mode `m`, and `n` chips come after it; only a single-chip operation latches a channel. -/
structure State.Handles (s : State) (q : Sequencer) (m : Mode) (n k : Nat) : Prop where
  cur : q.cur = k
  mode : q.pendMode = m
  last : (s.walking q).lastChip = k + n
  noChannel : n ≠ 0 → q.pendChan = none

/-- The `n` chips from `k` are still to be brought to `v` in mode `m`: the first of them is checked next, or with none
left the operation ends with OK (`NEXT`, R176). -/
def State.Ready (s : State) (q : Sequencer) (m : Mode) (v : Mask) : Nat → Nat → Prop
  | 0, _ => q.Ends .ok none
  | n + 1, k => q.phase = .check ∧ s.Handles q m n k ∧ (s.walking q).checkMask = v

/-! ### A host operation at both levels (R9, R177) -/

/-- What an idle block makes of the host operation `i`, at the operation level and at the event level: a record at
once; or the loop of a broadcast over one chip or over the chain; or the bus initialisation. -/
inductive Served (i : Instr) (s : State) :
    Host.Outcome State Fault Refusal → Host.Outcome State Fault Refusal → Prop
  | answered (r : Result) (hr : r.trace = []) : Served i s (.next (s.give r)) (.next (s.give r))
  | chip (k : Nat) (m : Mode) (v : Mask) (q : Sequencer) (hk : s.cfg.hasChip k = true)
      (hq : s.start.Ready q m v 1 k) : Served i s (s.sendMask k m v) (.next (s.begin q))
  | chain (mode : ModeCode) (m : Mode) (v : Mask) (q : Sequencer) (hi : i = .broadcast mode v)
      (hq : s.start.Ready q m v s.cfg.nChips 1) :
      Served i s (if s.env.hung && s.broadcastTransacts m v then .fault .transportHung else .next (s.broadcastAll m v))
        (.next (s.begin q))
  | bus (hi : i = .init) (hn : s.initialized = false) :
      Served i s (if s.env.hung then .fault .transportHung else .next s.initBus)
        (.next (s.begin { s.seq with phase := .busInit }))

section
variable {s : State}

/-- There is a chip (D2). -/
theorem State.Inv.one_le_nChips (hs : s.Inv) : 1 ≤ s.cfg.nChips := by
  have hlegal := hs.legal
  simp only [Config.wf, Bool.and_eq_true, decide_eq_true_eq] at hlegal
  obtain ⟨⟨⟨hn, _⟩, _⟩, _⟩ := hlegal
  exact hn

theorem served_channel (hb : s.busy = false) (i : Instr) (m : Mode) (chip channel : Nat) (enabled : Bool) :
    Served i s (s.setChannel m chip channel enabled) (.next (s.acceptChannel m chip channel enabled)) := by
  rw [State.setChannel, whenIdle_of_idle hb, State.acceptChannel]
  cases hv : s.validate (some channel) (some chip) none with
  | some e => exact .answered _ rfl
  | none => exact .chip chip m _ _ (hasChip_of_validate hv).2 ⟨rfl, ⟨rfl, rfl, rfl, nofun⟩, rfl⟩

theorem served_whole (hb : s.busy = false) (i : Instr) (chip : Nat) (mode : ModeCode) (mask : Mask) :
    Served i s (s.setWhole chip mode mask) (.next (s.acceptWhole chip mode mask)) := by
  rw [State.setWhole, whenIdle_of_idle hb, State.acceptWhole]
  cases hv : s.validate none (some chip) (some mode) with
  | some e => exact .answered _ rfl
  | none =>
    cases s.cfg.modeOf mode with
    | some m => exact .chip chip m mask _ (hasChip_of_validate hv).2 ⟨rfl, ⟨rfl, rfl, rfl, nofun⟩, rfl⟩
    | none => exact .answered _ rfl

theorem served_broadcast (hs : s.Inv) (hb : s.busy = false) (mode : ModeCode) (mask : Mask) :
    Served (.broadcast mode mask) s (execBroadcast mode mask s) (.next (s.acceptBroadcast mode mask)) := by
  rw [execBroadcast, whenIdle_of_idle hb, State.acceptBroadcast]
  cases s.validate none none (some mode) with
  | some e => exact .answered _ rfl
  | none =>
    cases s.cfg.modeOf mode with
    | some m =>
      have hlast : s.cfg.nChips = s.cfg.nChips - 1 + 1 := (Nat.sub_add_cancel hs.one_le_nChips).symm
      refine .chain mode m mask _ rfl ?_
      rw [hlast]
      exact ⟨rfl, ⟨rfl, rfl, hlast.trans (Nat.add_comm ..), fun _ => rfl⟩, rfl⟩
    | none => exact .answered _ rfl

theorem served_init (hb : s.busy = false) : Served .init s (execInit s) (.next s.acceptInit) := by
  rw [execInit, whenIdle_of_idle hb, State.acceptInit]
  cases hn : s.initialized with
  | true => exact .answered _ rfl
  | false => exact .bus rfl hn

theorem served_cacheGet (hb : s.busy = false) (i : Instr) (chip : Nat) (mode : ModeCode) :
    Served i s (execCacheGet chip mode s) (execCacheGet chip mode s) := by
  rw [execCacheGet, whenIdle_of_idle hb]
  cases s.validate none (some chip) (some mode) with
  | some e => exact .answered _ rfl
  | none => exact .answered _ rfl

/-- An idle block makes nothing else of a host operation. -/
theorem served {i : Instr} (hi : isHostOperation i = true) (hs : s.Inv) (hb : s.busy = false) :
    Served i s (exec i s) (accept i s) := by
  cases i with
  | init => exact served_init hb
  | setProtection chip channel enabled => exact served_channel hb _ .protect chip channel enabled
  | setDiagnostics chip channel enabled => exact served_channel hb _ .diag chip channel enabled
  | setOutput chip channel enabled => exact served_channel hb _ .output chip channel enabled
  | setMultiplePins chip mode mask => exact served_whole hb _ chip mode mask
  | targeted chip mode mask => exact served_whole hb _ chip mode mask
  | broadcast mode mask => exact served_broadcast hs hb mode mask
  | cacheGet chip mode => exact served_cacheGet hb _ chip mode
  | reservedOp | wrProtect | wrDiag | wrOutput | reply | encode | decode | rev16 | cacheSet | transact
  | tInit | tSelect | tDeselect | tTransfer | enablePwm => cases hi

end

/-! ### Traces (R174, R178) -/

/-- The trace of one transaction with a chip of the chain (R174). -/
theorem transactionsAbove_one {c : Config} {k : Nat} (hk : c.hasChip k = true) (w : Word) (a : TransferAnswer) :
    transactionsAbove c.nChips w 0 (transactionEvents k w a) := by
  simp [transactionEvents, transactionsAbove, Nat.lt_iff_add_one_le, hasChip_iff.1 hk]

/-- The record of a transaction by itself (R161). -/
theorem transactAlone_record (s : State) (k : Nat) (m : Mode) (v : Mask) :
    ∃ r, (s.transactAlone k m v).result = some r ∧
      r.trace = transactionEvents k (wireWord (s.cfg.code m) v) s.nextTransfer ∧ r.status.isValidation = false := by
  obtain ⟨r, hr, hstatus⟩ := transactAlone_result s k m v
  obtain ⟨e, f, heq⟩ := transactAlone_eq_finish s k m v
  refine ⟨r, hr, ?_, by obtain h | h := hstatus <;> rw [h] <;> rfl⟩
  rw [heq] at hr
  cases hr
  exact transact_trace s.start k m v

/-- The record of a broadcast (R171, R174). -/
theorem broadcastAll_record {s : State} (h : s.Inv) (hb : s.busy = false) (m : Mode) (v : Mask) :
    ∃ r, (s.broadcastAll m v).result = some r ∧
      transactionsAbove s.cfg.nChips (wireWord (s.cfg.code m) v) 0 r.trace ∧ r.status.isValidation = false := by
  obtain ⟨o, t, es, hloop, _, ht, _, _, _, habove, _⟩ :=
    broadcastLoop_spec m v s.cfg.nChips 1 s.start (h.start_quiet hb) le_rfl (Nat.add_comm ..)
  have htrace : t.trace = es := by rw [ht]; rfl
  rw [broadcastAll_eq_conclude, hloop]
  exact ⟨_, rfl, htrace ▸ habove 0 one_pos, endStatus_not_validation o⟩

/-- The record of a bus initialisation (R190, R192). -/
theorem initBus_record (s : State) : ∃ r, s.initBus.result = some r ∧ r.trace = [.init s.nextInit] ∧
    r.status.isValidation = false := by
  unfold State.initBus
  dsimp only
  split <;> exact ⟨_, rfl, rfl, rfl⟩

/-- What R174 and R178 say of the record with which the operation `i`, accepted in `s`, ends in `t`. -/
def Bracketed (i : Instr) (s t : State) : Prop :=
  ∀ r, t.result = some r →
    ((∃ m v, transactionsAbove s.cfg.nChips (wireWord (s.cfg.code m) v) 0 r.trace) ∨
      (i = .init ∧ s.initialized = false ∧ ∃ a, r.trace = [.init a])) ∧
    ((∀ mode mask, i ≠ .broadcast mode mask) → transferCount r.trace ≤ 1) ∧
    (r.status.isValidation = true → r.trace = [])

section
variable {i : Instr} {s : State}

theorem give_bracketed {r : Result} (hr : r.trace = []) : Bracketed i s (s.give r) := by
  rintro _ ⟨⟩
  rw [hr]
  exact ⟨.inl ⟨.protect, 0#8, trivial⟩, fun _ => Nat.zero_le 1, fun _ => rfl⟩

theorem transactAlone_bracketed {k : Nat} (hk : s.cfg.hasChip k = true) (m : Mode) (v : Mask) :
    Bracketed i s (s.transactAlone k m v) := by
  intro r hr
  obtain ⟨r', hr', htrace, hvalid⟩ := transactAlone_record s k m v
  cases hr.symm.trans hr'
  rw [htrace, hvalid]
  exact ⟨.inl ⟨m, v, transactionsAbove_one hk ..⟩, fun _ => le_rfl, nofun⟩

theorem broadcastAll_bracketed (h : s.Inv) (hb : s.busy = false) {mode : ModeCode} {m : Mode} {v : Mask}
    (hi : i = .broadcast mode v) : Bracketed i s (s.broadcastAll m v) := by
  intro r hr
  obtain ⟨r', hr', habove, hvalid⟩ := broadcastAll_record h hb m v
  cases hr.symm.trans hr'
  rw [hvalid]
  exact ⟨.inl ⟨m, v, habove⟩, fun hne => absurd hi (hne mode v), nofun⟩

theorem initBus_bracketed (hi : i = .init) (hn : s.initialized = false) : Bracketed i s s.initBus := by
  intro r hr
  obtain ⟨r', hr', htrace, hvalid⟩ := initBus_record s
  cases hr.symm.trans hr'
  rw [htrace, hvalid]
  exact ⟨.inr ⟨hi, hn, _, rfl⟩, fun _ => Nat.zero_le 1, nofun⟩

/-- Whatever an idle block makes of a host operation, its record is as R174 says. -/
theorem Served.bracketed {o a : Host.Outcome State Fault Refusal} (hs : Served i s o a) (h : s.Inv)
    (hb : s.busy = false) : OnNext (Bracketed i s) o := by
  cases hs with
  | answered r hr => exact onNext_next.2 (give_bracketed hr)
  | chip k m v q hk =>
    unfold State.sendMask
    split
    · exact onNext_next.2 (give_bracketed rfl)
    · exact onNext_unlessFault (transactAlone_bracketed hk m v)
  | chain mode m v q hi => exact onNext_unlessFault (broadcastAll_bracketed h hb hi)
  | bus hi hn => exact onNext_unlessFault (initBus_bracketed hi hn)

end

/-- Settles O35: by what an idle block makes of the operation. -/
theorem tracesAreBracketedTransactions : Obligations.TracesAreBracketedTransactions :=
  fun _ t _ r h hb hi ht hr => (served hi h hb).bracketed h hb t ht r hr

/-! ### The walk of phases (R176, R177) -/

/-- Within `n` steps the machine gets from `s` to `t`, and goes on from there. -/
def ReachesWithin (n : Nat) (s t : State) : Prop := ∃ j ≤ n, ∀ b, core.run (b + j) s = core.run b t

theorem ReachesWithin.refl (n : Nat) (s : State) : ReachesWithin n s s := ⟨0, Nat.zero_le n, fun _ => rfl⟩

theorem ReachesWithin.trans {a b : Nat} {s t u : State} (hst : ReachesWithin a s t) (htu : ReachesWithin b t u) :
    ReachesWithin (a + b) s u := by
  obtain ⟨i, hi, hst⟩ := hst
  obtain ⟨j, hj, htu⟩ := htu
  exact ⟨j + i, by omega, fun b => by rw [← Nat.add_assoc, hst, htu]⟩

theorem ReachesWithin.mono {a b : Nat} {s t : State} (h : ReachesWithin a s t) (hab : a ≤ b) :
    ReachesWithin b s t := by
  obtain ⟨i, hi, hst⟩ := h
  exact ⟨i, hi.trans hab, hst⟩

theorem reachesWithin_of_step {s t : State} (h : step s = .next t) : ReachesWithin 1 s t := by
  have h : core.step s = .next t := h
  exact ⟨1, le_rfl, fun b => by simp only [Host.Core.run, h]⟩

/-- Nothing but the operation in flight goes on: no input is presented, no record stands, the Transport answers. -/
structure State.Alone (s : State) : Prop where
  inputs : s.env.inputs = []
  answering : s.env.hung = false
  result : s.result = none

section
variable {s : State}

theorem State.Alone.congr {t : State} (hs : s.Alone) (hhung : t.env.hung = s.env.hung)
    (hin : t.env.inputs = s.env.inputs) (hres : t.result = s.result) : t.Alone :=
  ⟨hin.trans hs.inputs, hhung.trans hs.answering, hres.trans hs.result⟩

theorem State.Alone.tInit (hs : s.Alone) : s.tInit.2.Alone :=
  hs.congr (Env.dropInit_hung s.env) (Env.dropInit_inputs s.env) rfl

theorem State.Alone.tTransfer (hs : s.Alone) (w : Word) : (s.tTransfer w).2.Alone := by
  obtain ⟨hhung, hin, _, hres⟩ := tTransfer_env s w
  exact hs.congr hhung hin hres

theorem State.Alone.tSelect (hs : s.Alone) (k : Nat) : (s.tSelect k).Alone := hs.congr rfl rfl rfl

theorem State.Alone.calls (hs : s.Alone) (k : Nat) (w : Word) : ((s.tSelect k).tTransfer w).2.Alone :=
  (hs.tSelect k).tTransfer w

theorem State.Alone.tDeselect (hs : s.Alone) (k : Nat) : (s.tDeselect k).Alone := hs.congr rfl rfl rfl

theorem State.Alone.transact (hs : s.Alone) (k : Nat) (m : Mode) (v : Mask) : (s.transact k m v).2.Alone := by
  obtain ⟨hhung, hin, _, hres, _⟩ := transact_env s k m v
  exact hs.congr hhung hin hres

theorem State.Alone.broadcastLoop (hs : s.Alone) (m : Mode) (v : Mask) (n k : Nat) :
    (broadcastLoop m v n k s).2.Alone := by
  obtain ⟨hhung, hin, _, hres, _⟩ := broadcastLoop_env m v n k s
  exact hs.congr hhung hin hres

end

/-! Each phase on the block that the operation level knows: it makes the same call or write, and moves the latches. -/

section
variable {s : State} {q : Sequencer}

/-- What each phase does, when the Transport answers (R176). -/
def State.act (s : State) : Phase → State
  | .idle => s
  | .busInit => s.phaseBusInit
  | .check => s.phaseCheck
  | .select => s.phaseSelect
  | .transfer => s.phaseTransfer
  | .deselect => s.phaseDeselect
  | .update => s.phaseUpdate
  | .done => s.phaseDone

/-- One phase is one step. -/
theorem reachesWithin_phase (hs : s.Alone) {p : Phase} (hp : q.phase = p) :
    ReachesWithin 1 (s.walking q) ((s.walking q).act p) := by
  have hin : (s.walking q).env.inputs = [] := hs.inputs
  have hclear : (s.walking q).clearResult = s.walking q := by
    simp [State.walking, State.clearResult, hs.result]
  have hadvance : advance (s.walking q) = (s.walking q).act p := by
    rw [advance_of_answering (s := s.walking q) hs.answering, show (s.walking q).seq.phase = p from hp]
    rfl
  refine reachesWithin_of_step ?_
  rw [← hadvance, step, runNext, hin, hclear]
  rfl

theorem busReceives_walking (s : State) (q : Sequencer) (w : Word) :
    (s.walking q).busReceives w = (s.busReceives w).walking q := by
  have hcfg : (s.walking q).cfg = s.cfg := rfl
  rw [State.busReceives, State.busReceives, hcfg]
  cases commandFields s.cfg (rev16 w) <;> rfl

theorem tTransfer_walking (s : State) (q : Sequencer) (w : Word) :
    (s.walking q).tTransfer w = (s.nextTransfer, (s.tTransfer w).2.walking q) := by
  have hn : (s.walking q).nextTransfer = s.nextTransfer := rfl
  rw [State.tTransfer, State.tTransfer, hn]
  cases s.nextTransfer with
  | ok r => exact congrArg (Prod.mk _) (busReceives_walking (s.dropTransfer.emit (.transfer w (.ok r))) q w)
  | fail => rfl

/-- Phase `TRANSFER` is the call of the operation level. -/
theorem phaseTransfer_walking (s : State) (q : Sequencer) : (s.walking q).phaseTransfer =
    (s.tTransfer q.pendWord).2.walking { q with pendAns := s.nextTransfer, phase := .deselect } := by
  unfold State.phaseTransfer
  rw [show (s.walking q).seq.pendWord = q.pendWord from rfl, tTransfer_walking]
  rfl

theorem phaseDeselect_walking_ok (s : State) {r : Word} (ha : q.pendAns = .ok r) :
    (s.walking q).phaseDeselect = (s.tDeselect q.cur).walking { q with phase := .update } := by
  unfold State.phaseDeselect
  rw [show (s.walking q).seq.pendAns = .ok r from ha]
  rfl

theorem phaseDeselect_walking_fail (s : State) (ha : q.pendAns = .fail) :
    (s.walking q).phaseDeselect = (s.tDeselect q.cur).walking
      { q with phase := .done, pendStatus := .transportFailure, pendFail := some q.cur } := by
  unfold State.phaseDeselect
  rw [show (s.walking q).seq.pendAns = .fail from ha]
  rfl

theorem phaseUpdate_walking (s : State) {r : Word} (ha : q.pendAns = .ok r) : (s.walking q).phaseUpdate =
    (((s.cacheSet q.cur q.pendMode q.pendMask).addReply q.cur r).walking q).nextChip := by
  unfold State.phaseUpdate
  rw [show (s.walking q).seq.pendAns = .ok r from ha]
  rfl

/-- Phase `CHECK` passes over a chip that holds the mask. -/
theorem phaseCheck_walking_of_eq (h : s.maskAt q.cur q.pendMode = (s.walking q).checkMask) :
    (s.walking q).phaseCheck = (s.walking { q with pendMask := (s.walking q).checkMask }).nextChip :=
  if_pos h

/-- And latches the mask and the word for a chip that does not. -/
theorem phaseCheck_walking_of_ne (h : s.maskAt q.cur q.pendMode ≠ (s.walking q).checkMask) :
    (s.walking q).phaseCheck = s.walking { q with
      pendMask := (s.walking q).checkMask
      pendWord := wireWord (s.cfg.code q.pendMode) (s.walking q).checkMask
      phase := .select } :=
  if_neg h

/-- The select and the transfer of the latched word (R176). -/
theorem walk_calls (hs : s.Alone) (hp : q.phase = .select) : ReachesWithin 2 (s.walking q)
    (((s.tSelect q.cur).tTransfer q.pendWord).2.walking { q with pendAns := s.nextTransfer, phase := .deselect }) := by
  have hsel : ReachesWithin 1 (s.walking q) ((s.tSelect q.cur).walking { q with phase := .transfer }) :=
    reachesWithin_phase hs hp
  have hsent : ReachesWithin 1 _ (State.phaseTransfer _) :=
    reachesWithin_phase (hs.tSelect q.cur) (q := { q with phase := .transfer }) rfl
  rw [phaseTransfer_walking] at hsent
  exact hsel.trans hsent

/-- After an ok answer come the deselect, the cache write with the reply, and `NEXT` (R176). -/
theorem walk_update (hs : s.Alone) (hp : q.phase = .deselect) {r : Word} (ha : q.pendAns = .ok r) :
    ReachesWithin 2 (s.walking q) ((((s.tDeselect q.cur).cacheSet q.cur q.pendMode q.pendMask).addReply q.cur r).walking
      { q with phase := .update }).nextChip := by
  have hdeselect : ReachesWithin 1 _ (s.walking q).phaseDeselect := reachesWithin_phase hs hp
  have hupdate : ReachesWithin 1 _ (State.phaseUpdate _) :=
    reachesWithin_phase (hs.tDeselect q.cur) (q := { q with phase := .update }) rfl
  rw [phaseDeselect_walking_ok s ha] at hdeselect
  rw [phaseUpdate_walking (q := { q with phase := .update }) _ ha] at hupdate
  exact hdeselect.trans hupdate

end

section
variable {s : State} {q : Sequencer} {m : Mode} {v : Mask} {n k : Nat}

theorem State.Handles.congr {t : State} {q' : Sequencer} (h : s.Handles q m n k) (hcfg : t.cfg = s.cfg)
    (hcur : q'.cur = q.cur) (hmode : q'.pendMode = q.pendMode) (hall : q'.pendAll = q.pendAll)
    (hchan : q'.pendChan = q.pendChan) : t.Handles q' m n k := by
  refine ⟨hcur.trans h.cur, hmode.trans h.mode, ?_, fun hn => hchan.trans (h.noChannel hn)⟩
  rw [← h.last]
  show (if q'.pendAll then t.cfg.nChips else q'.cur) = if q.pendAll then s.cfg.nChips else q.cur
  rw [hcfg, hcur, hall]

/-- With chips to come the operation is a broadcast. -/
theorem State.Handles.pendAll (hq : s.Handles q m (n + 1) k) : q.pendAll = true := by
  have hlast : (if q.pendAll then s.cfg.nChips else q.cur) = k + (n + 1) := hq.last
  by_contra hall
  rw [if_neg hall, hq.cur] at hlast
  omega

/-- The latches when the next chip is to be checked. -/
def Sequencer.atNext (q : Sequencer) : Sequencer := { q with cur := q.cur + 1, phase := .check }

/-- `NEXT` goes to the next chip, or ends after the last (R176). -/
theorem nextChip_ready (hq : s.Handles q m n k) (hmask : q.pendMask = v) :
    ∃ q', (s.walking q).nextChip = s.walking q' ∧ s.Ready q' m v n (k + 1) := by
  have hlast := hq.last
  have hcur := hq.cur
  cases n with
  | zero =>
    have hnot : ¬q.cur < (s.walking q).lastChip := by omega
    exact ⟨_, if_neg hnot, rfl, rfl, rfl⟩
  | succ n =>
    have hlt : q.cur < (s.walking q).lastChip := by omega
    have hlast' : (s.walking q.atNext).lastChip = (s.walking q).lastChip := by
      show (if q.pendAll then s.cfg.nChips else q.cur + 1) = if q.pendAll then s.cfg.nChips else q.cur
      rw [if_pos hq.pendAll, if_pos hq.pendAll]
    have hchan : q.atNext.pendChan = none := hq.noChannel (by omega)
    refine ⟨q.atNext, if_pos hlt, rfl, ⟨by rw [← hcur]; rfl, hq.mode, by omega, fun _ => hchan⟩, ?_⟩
    rw [State.checkMask, show (s.walking q.atNext).seq.pendChan = none from hchan]
    exact hmask

/-- A chip that holds the mask takes one step (R176). -/
theorem walk_held (hs : s.Alone) (hq : s.Ready q m v (n + 1) k) (heq : s.maskAt k m = v) :
    ∃ q', s.Ready q' m v n (k + 1) ∧ ReachesWithin 1 (s.walking q) (s.walking q') := by
  obtain ⟨hp, hq, hmask⟩ := hq
  have hcheck : ReachesWithin 1 _ (s.walking q).phaseCheck := reachesWithin_phase hs hp
  rw [phaseCheck_walking_of_eq (by rw [hq.cur, hq.mode, heq, hmask]), hmask] at hcheck
  obtain ⟨q', hnext, hready⟩ := nextChip_ready (q := { q with pendMask := v }) (hq.congr rfl rfl rfl rfl rfl) rfl
  exact ⟨q', hready, hnext ▸ hcheck⟩

/-- What is latched for chip `k` once it is known that it does not hold the mask. -/
def Sequencer.latched (q : Sequencer) (v : Mask) (w : Word) (a : TransferAnswer) (p : Phase) : Sequencer :=
  { q with pendMask := v, pendWord := w, pendAns := a, phase := p }

/-- The check and the first two calls for a chip that does not hold the mask (R176). -/
theorem walk_sent (hs : s.Alone) (hq : s.Ready q m v (n + 1) k) (hne : s.maskAt k m ≠ v) :
    let w := wireWord (s.cfg.code m) v
    ReachesWithin 3 (s.walking q)
      (((s.tSelect k).tTransfer w).2.walking (q.latched v w s.nextTransfer .deselect)) := by
  obtain ⟨hp, ⟨rfl, rfl, _, _⟩, rfl⟩ := hq
  have hcheck : ReachesWithin 1 _ (s.walking q).phaseCheck := reachesWithin_phase hs hp
  rw [phaseCheck_walking_of_ne hne] at hcheck
  exact hcheck.trans (walk_calls hs rfl)

/-- An ok answer makes the chip's transaction of the calls: deselect, cache write, reply (R161). -/
theorem transact_snd_of_ok {r : Word} (hn : s.nextTransfer = .ok r) (k : Nat) (m : Mode) (v : Mask) :
    (s.transact k m v).2 =
      ((((s.tSelect k).tTransfer (wireWord (s.cfg.code m) v)).2.tDeselect k).cacheSet k m v).addReply k r := by
  unfold State.transact
  dsimp only
  rw [show ((s.tSelect k).tTransfer (wireWord (s.cfg.code m) v)).1 = .ok r from hn]

/-- A failed one makes it of the deselect alone (R163). -/
theorem transact_snd_of_fail (hn : s.nextTransfer = .fail) (k : Nat) (m : Mode) (v : Mask) :
    (s.transact k m v).2 = ((s.tSelect k).tTransfer (wireWord (s.cfg.code m) v)).2.tDeselect k := by
  unfold State.transact
  dsimp only
  rw [show ((s.tSelect k).tTransfer (wireWord (s.cfg.code m) v)).1 = .fail from hn]

/-- The share of a chip that does not hold the mask, answered ok, is its transaction, and the next chip can follow. -/
theorem walk_ok (hs : s.Alone) (hq : s.Ready q m v (n + 1) k) (hne : s.maskAt k m ≠ v) {r : Word}
    (hn : s.nextTransfer = .ok r) : ∃ q', (s.transact k m v).2.Ready q' m v n (k + 1) ∧
      ReachesWithin 5 (s.walking q) ((s.transact k m v).2.walking q') := by
  have hsent := walk_sent hs hq hne
  obtain ⟨_, hq, _⟩ := hq
  obtain rfl := hq.cur
  obtain rfl := hq.mode
  have hupdate := walk_update (hs.calls q.cur (wireWord (s.cfg.code q.pendMode) v))
    (q := q.latched v (wireWord (s.cfg.code q.pendMode) v) s.nextTransfer .deselect) rfl hn
  obtain ⟨q', hnext, hready⟩ := nextChip_ready (v := v) (hq.congr (s.transact_cfg q.cur q.pendMode v)
    (q' := q.latched v (wireWord (s.cfg.code q.pendMode) v) s.nextTransfer .update) rfl rfl rfl rfl) rfl
  rw [transact_snd_of_ok hn] at hnext hready ⊢
  exact ⟨q', hready, hnext ▸ hsent.trans hupdate⟩

/-- The share of a chip whose transfer fails is its transaction, and the operation ends there (R163, R176). -/
theorem walk_fail (hs : s.Alone) (hq : s.Ready q m v (n + 1) k) (hne : s.maskAt k m ≠ v)
    (hn : s.nextTransfer = .fail) : ∃ q' : Sequencer, q'.Ends .transportFailure (some k) ∧
      ReachesWithin 4 (s.walking q) ((s.transact k m v).2.walking q') := by
  have hsent := walk_sent hs hq hne
  obtain ⟨_, hq, _⟩ := hq
  obtain rfl := hq.cur
  have hdeselect : ReachesWithin 1 _ (State.phaseDeselect _) :=
    reachesWithin_phase (hs.calls q.cur (wireWord (s.cfg.code m) v))
      (q := q.latched v (wireWord (s.cfg.code m) v) s.nextTransfer .deselect) rfl
  rw [phaseDeselect_walking_fail _ hn] at hdeselect
  rw [transact_snd_of_fail hn]
  exact ⟨_, ⟨rfl, rfl, rfl⟩, hsent.trans hdeselect⟩

/-- The walk over `n` chips from `k` is the loop of a broadcast over them (R177). -/
theorem walk_loop (m : Mode) (v : Mask) : ∀ {n k : Nat} {s : State} {q : Sequencer}, s.Alone → s.Ready q m v n k →
    let p := broadcastLoop m v n k s
    ∃ q' : Sequencer, q'.Ends (endStatus p.1) p.1 ∧ ReachesWithin (5 * n) (s.walking q) (p.2.walking q')
  | 0, _, _, q, _, hq => ⟨q, hq, .refl ..⟩
  | n + 1, k, s, q, hs, hq => by
    rw [broadcastLoop]
    by_cases heq : s.maskAt k m = v
    · obtain ⟨q', hq', hheld⟩ := walk_held hs hq heq
      obtain ⟨q'', hends, hrest⟩ := walk_loop m v hs hq'
      rw [if_pos heq]
      exact ⟨q'', hends, (hheld.trans hrest).mono (by omega)⟩
    · rw [if_neg heq]
      dsimp only
      rw [transact_fst]
      cases hn : s.nextTransfer with
      | ok r =>
        obtain ⟨q', hq', hsent⟩ := walk_ok hs hq heq hn
        obtain ⟨q'', hends, hrest⟩ := walk_loop m v (hs.transact k m v) hq'
        exact ⟨q'', hends, (hsent.trans hrest).mono (by omega)⟩
      | fail =>
        obtain ⟨q', hends, hsent⟩ := walk_fail hs hq heq hn
        exact ⟨q', hends, hsent.mono (by omega)⟩

end

/-! ### Both levels agree (R177) -/

/-- Within `n` steps the machine gets from `u` to rest in what `x` is but for the sequencer. -/
def RestsIn (n : Nat) (u x : State) : Prop :=
  ∃ t, ReachesWithin n u t ∧ t.busy = false ∧ t.seq.phase = .idle ∧ x = { t with seq := x.seq }

theorem RestsIn.mono {a b : Nat} {u x : State} (h : RestsIn a u x) (hab : a ≤ b) : RestsIn b u x := by
  obtain ⟨t, hut, hrest⟩ := h
  exact ⟨t, hut.mono hab, hrest⟩

theorem RestsIn.after {a b : Nat} {s u x : State} (hsu : ReachesWithin a s u) (hux : RestsIn b u x) :
    RestsIn (a + b) s x := by
  obtain ⟨t, hut, hrest⟩ := hux
  exact ⟨t, hsu.trans hut, hrest⟩

section
variable {s : State} {q : Sequencer}

/-- Phase `DONE` returns the record (R176). -/
theorem restsIn_finish (hs : s.Alone) (hb : s.busy = false) {e : Status} {f : Option Nat} (hq : q.Ends e f) :
    RestsIn 1 (s.walking q) (s.finish e f) := by
  obtain ⟨hp, rfl, rfl⟩ := hq
  have hdone : ReachesWithin 1 _ (s.walking q).phaseDone := reachesWithin_phase hs hp
  refine ⟨_, hdone, rfl, rfl, ?_⟩
  simp [State.phaseDone, State.finish, State.goto, State.walking, hb]

/-- An operation that serves `n` chips from `k` ends as the loop over them does. -/
theorem restsIn_conclude (hs : s.Alone) (hb : s.busy = false) {m : Mode} {v : Mask} {n k : Nat}
    (hq : s.Ready q m v n k) : RestsIn (5 * n + 1) (s.walking q) (conclude (broadcastLoop m v n k s)) := by
  obtain ⟨q', hends, hwalk⟩ := walk_loop m v hs hq
  obtain ⟨_, _, hbusy, _⟩ := broadcastLoop_env m v n k s
  exact .after hwalk (restsIn_finish (hs.broadcastLoop m v n k) (hbusy.trans hb) hends)

/-- The bus initialisation takes one phase and `DONE` (R176, R190, R192). -/
theorem restsIn_initBus (hs : s.start.Alone) (hb : s.busy = false) (hp : q.phase = .busInit) :
    RestsIn 2 (s.start.walking q) s.initBus := by
  have hbus : ReachesWithin 1 _ (s.start.walking q).phaseBusInit := reachesWithin_phase hs hp
  dsimp only [State.phaseBusInit] at hbus
  unfold State.initBus
  dsimp only
  have hanswer : (s.start.walking q).tInit.1 = s.start.tInit.1 := rfl
  cases hn : s.start.tInit.1 with
  | ok =>
    rw [hanswer, hn] at hbus
    have hdone := restsIn_finish (s := s.start.tInit.2.initialise)
      (q := { q with phase := .done, pendStatus := .ok, pendFail := none })
      ⟨hs.tInit.inputs, hs.tInit.answering, hs.tInit.result⟩ hb ⟨rfl, rfl, rfl⟩
    exact .after hbus hdone
  | fail =>
    rw [hanswer, hn] at hbus
    have hdone := restsIn_finish (s := s.start.tInit.2)
      (q := { q with phase := .done, pendStatus := .transportFailure, pendFail := none }) hs.tInit hb ⟨rfl, rfl, rfl⟩
    exact .after hbus hdone

/-- Accepted at the event level, a host operation makes the block walk to what it does at the operation level. -/
theorem Served.restsIn {i : Instr} {o a : Host.Outcome State Fault Refusal} (hserved : Served i s o a) (h : s.Inv)
    (hb : s.busy = false) (hs : s.Alone) :
    ∃ u x, a = .next u ∧ o = .next x ∧ x.seq = s.seq ∧ RestsIn (5 * s.cfg.nChips + 1) u x := by
  have hstart : s.start.Alone := ⟨hs.inputs, hs.answering, hs.result⟩
  have hN := h.one_le_nChips
  cases hserved with
  | answered r => exact ⟨_, _, rfl, rfl, rfl, _, .refl .., hb, h.phase_idle hb, rfl⟩
  | chip k m v q hk hq =>
    have hrest := restsIn_conclude hstart hb hq
    obtain ⟨_, _, _, _, _, hseq⟩ := broadcastLoop_env m v 1 k s.start
    refine ⟨_, conclude (broadcastLoop m v 1 k s.start), rfl, ?_, hseq, hrest.mono (by omega)⟩
    rw [sendMask_eq_loop h hb, hs.answering]; rfl
  | chain mode m v q _ hq =>
    have hrest := restsIn_conclude hstart hb hq
    refine ⟨_, _, rfl, by rw [hs.answering]; rfl, s.broadcastAll_seq m v, ?_⟩
    rw [broadcastAll_eq_conclude]
    exact hrest
  | bus _ hn =>
    have hrest := restsIn_initBus (q := { s.seq with phase := .busInit }) hstart hb rfl
    refine ⟨_, _, rfl, by rw [hs.answering]; rfl, s.initBus_seq, hrest.mono (by omega)⟩

end

/-- Settles O53: the request is accepted in one step, and the phases then walk to what the operation does. -/
theorem walkOfPhasesAgreesWithTheOperation : Obligations.WalkOfPhasesAgreesWithTheOperation := by
  intro s r hinv hb hl hh hin
  have h := take_inv hinv []
  have hs : (s.take []).Alone := ⟨rfl, hh, rfl⟩
  have hstep : step s = accept (decodeRequest r) (s.take []) := by
    simp only [step, runNext, hin, hb, State.perform, State.take_level, hl]
    rfl
  obtain hhost | ⟨op, hop⟩ := decodeRequest_cases r
  · obtain ⟨u, x, hu, hx, hseq, t, hwalk, hbusy, hidle, ht⟩ := (served hhost h hb).restsIn h hb hs
    obtain ⟨n, hn, hrun⟩ := (reachesWithin_of_step (hstep.trans hu)).trans hwalk
    refine ⟨n, t, by rw [State.take_cfg] at hn; omega, (Nat.zero_add n ▸ hrun 0 :), hbusy, hidle, hx.trans ?_⟩
    rw [ht, hseq]
    rfl
  · rw [hop] at hstep ⊢
    obtain ⟨n, hn, hrun⟩ := reachesWithin_of_step hstep
    exact ⟨n, s.take [], by omega, (Nat.zero_add n ▸ hrun 0 :), hb, h.phase_idle hb, rfl⟩

end Sys2Proof.Machine

/-! PROOFS for 44_transport_system.md: the four Transport calls by themselves (R183 to R186), INIT (R190 to R192), what
changes nothing (R97, R195), and a Transport that hangs (R196). -/

namespace Sys2Proof.Machine

/-! ### The calls as micro-operations (R183 to R185)

Each says once when the call returns, which a hung Transport never does (R196). -/

section
variable {s : State} {k : Nat}

theorem exec_tInit (s : State) : exec .tInit s = if s.env.hung then .fault .transportHung else .next s.tInit.2 :=
  rfl

theorem exec_tSelect (hk : s.cfg.hasChip k = true) :
    exec (.tSelect k) s = if s.env.hung then .fault .transportHung else .next (s.tSelect k) :=
  if_pos hk

theorem exec_tDeselect (hk : s.cfg.hasChip k = true) :
    exec (.tDeselect k) s = if s.env.hung then .fault .transportHung else .next (s.tDeselect k) :=
  if_pos hk

theorem exec_tTransfer (s : State) (w : Word) :
    exec (.tTransfer w) s = if s.env.hung then .fault .transportHung else .next (s.tTransfer w).2 :=
  rfl

/-- Setting a chip's line moves that line and no other (R184, R185). -/
theorem setLine_moves_one {cs : List Bool} (hk1 : 1 ≤ k) (hk : k ≤ cs.length) (b : Bool) :
    (cs.set (k - 1) b)[k - 1]? = some b ∧ (cs.set (k - 1) b).length = cs.length ∧
      ∀ j, j ≠ k - 1 → (cs.set (k - 1) b)[j]? = cs[j]? :=
  ⟨List.getElem?_set_self (by omega), List.length_set, fun _ hj => List.getElem?_set_ne hj.symm⟩

end

/-- Settles O38: each call is its shared operation, and the two select calls set one line. -/
theorem selectAndDeselectMoveOneLine : Obligations.SelectAndDeselectMoveOneLine := by
  intro s k hh hk1 hkn hcs
  have hk : s.cfg.hasChip k = true := hasChip_iff.2 ⟨hk1, hkn⟩
  have hline := setLine_moves_one hk1 (hkn.trans hcs.ge)
  rw [exec_tInit, exec_tSelect hk, exec_tDeselect hk, hh]
  exact ⟨rfl, ⟨s.tSelect k, rfl, rfl, hline true⟩, ⟨s.tDeselect k, rfl, rfl, hline false⟩⟩

/-! ### INIT (R190 to R192) -/

section
variable {s : State}

/-- INIT of an initialised block does nothing (R191). -/
theorem exec_init_of_initialized (hb : s.busy = false) (hi : s.initialized = true) :
    exec .init s = .next (s.give { status := .ok }) := by
  show execInit s = _
  rw [execInit, whenIdle_of_idle hb, if_pos hi]

/-- Otherwise it is the bus initialisation, if the Transport answers (R190, R196). -/
theorem exec_init_of_not_initialized (hb : s.busy = false) (hi : s.initialized = false) :
    exec .init s = if s.env.hung then .fault .transportHung else .next s.initBus := by
  show execInit s = _
  rw [execInit, whenIdle_of_idle hb, hi]; rfl

/-- Between operations there is nothing gathered to clear (R32). -/
theorem State.Inv.start_eq (h : s.Inv) (hb : s.busy = false) : s.start = s := by
  obtain ⟨hreplies, htrace⟩ := h.idleEmpty (h.phase_idle hb)
  rw [State.start, ← hreplies, ← htrace]

/-- The bus initialisation of an idle block, answered ok (R190). -/
theorem initBus_ok (h : s.Inv) (hb : s.busy = false) (hn : s.nextInit = .ok) : s.initBus =
    { s.dropInit with
      cache := List.replicate s.cfg.nChips .zero
      cs := List.replicate s.cfg.nChips false
      initialized := true
      result := some { status := .ok, trace := [.init .ok] } } := by
  obtain ⟨hreplies, htrace⟩ := h.idleEmpty (h.phase_idle hb)
  rw [State.initBus, h.start_eq hb, State.tInit, hn]
  simp [State.finish, State.initialise, State.emit, hreplies, htrace]

/-- The bus initialisation of an idle block, answered fail (R192). -/
theorem initBus_fail (h : s.Inv) (hb : s.busy = false) (hn : s.nextInit = .fail) : s.initBus =
    { s.dropInit with result := some { status := .transportFailure, trace := [.init .fail] } } := by
  obtain ⟨hreplies, htrace⟩ := h.idleEmpty (h.phase_idle hb)
  rw [State.initBus, h.start_eq hb, State.tInit, hn]
  simp [State.finish, State.emit, hreplies, htrace]

end

/-- Settles O37: by whether the block is initialised, and else by the answer to the bus initialisation. -/
theorem initFollowsTheAnswer : Obligations.InitFollowsTheAnswer := by
  intro s h hb
  refine ⟨exec_init_of_initialized hb, fun hi hh hn => ?_, fun hi hh hn => ?_⟩
  · rw [exec_init_of_not_initialized hb hi, hh, initBus_ok h hb hn]; rfl
  · rw [exec_init_of_not_initialized hb hi, hh, initBus_fail h hb hn]; rfl

/-! ### What changes nothing (R97, R195) -/

/-- Settles O42: both meanings answer the state they are given. -/
theorem reservedAndPwmChangeNothing : Obligations.ReservedAndPwmChangeNothing :=
  fun _ _ _ => ⟨rfl, rfl⟩

/-! ### A Transport that hangs (R196, R248) -/

section
variable {s : State} {k : Nat} {m : Mode} {v : Mask}

theorem exec_transact_of_hung (hk : s.cfg.hasChip k = true) (hh : s.env.hung = true) (m : Mode) (v : Mask) :
    exec (.transact k m v) s = .fault .transportHung := by
  show execTransact k m v s = _
  rw [execTransact, if_pos hk, if_pos hh]

/-- A mask that must be sent is never sent (R140 (e), R196). -/
theorem sendMask_of_hung (hne : s.maskAt k m ≠ v) (hh : s.env.hung = true) :
    s.sendMask k m v = .fault .transportHung := by
  rw [State.sendMask, if_neg hne, if_pos hh]

/-- A broadcast with a chip to serve makes a call (R178). -/
theorem broadcastTransacts_of_chipsToServe (h : chipsToServe s m v ≠ []) : s.broadcastTransacts m v = true := by
  obtain ⟨k, hk⟩ := List.exists_mem_of_ne_nil _ h
  obtain ⟨hchip, hne⟩ := mem_chipsToServe.1 hk
  exact broadcastTransacts_of_ne hchip hne

/-- With nothing presented a busy block goes on with its operation (R28, R175). -/
theorem step_of_busy (hb : s.busy = true) (hin : s.env.inputs = []) : step s = .next (advance s.clearResult) := by
  simp only [step, runNext, hin, hb, if_true]

end

/-- Settles O43: every meaning and every phase that calls the Transport asks first whether it is hung. -/
theorem hungTransportNeverReturns : Obligations.HungTransportNeverReturns := by
  refine ⟨fun s hh hb => ⟨fun hi => ?_, fun i chip m v ha hne => ?_, fun mode m mask hi hm hserve => ?_⟩,
    fun s k m v w hh hk1 hkn => ?_, fun s hh hin hb hp => ?_⟩
  · rw [exec_init_of_not_initialized hb hi, if_pos hh]
  · rw [exec_of_asksFor hb ha, sendMask_of_hung hne hh]
  · rw [exec_broadcast hb hi hm, broadcastTransacts_of_chipsToServe hserve, hh]; rfl
  · have hk : s.cfg.hasChip k = true := hasChip_iff.2 ⟨hk1, hkn⟩
    rw [exec_transact_of_hung hk hh, exec_tInit, exec_tSelect hk, exec_tDeselect hk, exec_tTransfer, hh]
    exact ⟨rfl, rfl, rfl, rfl, rfl⟩
  · have hwaits : advance s.clearResult = s.clearResult := advance_of_hung hh hp
    rw [step_of_busy hb hin, hwaits]; rfl

end Sys2Proof.Machine

/-! PROOFS for 60_exceptions.md: the statuses an operation can end with (R206), and what a validation error leaves
behind (R209). The ways in which an accepted operation ends are said once; both statements are read off from them. -/

namespace Sys2Proof.Machine

/-! ### The classes of statuses (R200) -/

/-- An operation that may end with OK and with `TransportFailure` may end with whatever is no validation error. -/
theorem mayEndWith_of_not_validation {i : Instr} {e : Status} (hok : mayEndWith i .ok = true)
    (hfail : mayEndWith i .transportFailure = true) (he : e.isValidation = false) : mayEndWith i e = true := by
  cases e with
  | ok => exact hok
  | transportFailure => exact hfail
  | channelOutOfRange | invalidMode | unknownChip | notInitialized => cases he

/-! ### How an accepted operation ends -/

/-- The operation `i`, accepted in `s`, ends with a status of its row of R206: either it is answered at once, and only
the record is given; or it went through to the Transport, and its status is no validation error. -/
inductive Ended (i : Instr) (s : State) : State → Prop
  | answered (r : Result) (hrow : mayEndWith i r.status = true) (htrace : r.trace = []) (hreplies : r.replies = []) :
      Ended i s (s.give r)
  | called {t : State} (r : Result) (hr : t.result = some r) (hrow : mayEndWith i r.status = true)
      (hvalid : r.status.isValidation = false) : Ended i s t

section
variable {i : Instr} {s t : State}

/-- It always returns a record, with a status of its row (R206). -/
theorem Ended.record (h : Ended i s t) : ∃ r, t.result = some r ∧ mayEndWith i r.status = true := by
  cases h with
  | answered r hrow => exact ⟨r, rfl, hrow⟩
  | called r hr hrow => exact ⟨r, hr, hrow⟩

/-- A validation error is always an answer at once (R209). -/
theorem Ended.of_validation (h : Ended i s t) {r : Result} (hr : t.result = some r)
    (hvalid : r.status.isValidation = true) : t = s.give r ∧ r.trace = [] ∧ r.replies = [] := by
  cases h with
  | answered r' _ htrace hreplies =>
    cases hr
    exact ⟨rfl, htrace, hreplies⟩
  | called r' hr' _ hvalid' =>
    cases hr.symm.trans hr'
    exact absurd hvalid (Bool.eq_false_iff.1 hvalid')

/-- `raise` is an answer at once (R209, R210). -/
theorem raise_ended {e : Status} (he : mayEndWith i e = true) : Ended i s (s.raise e) :=
  .answered _ he rfl rfl

/-- The common end of the set operations checks nothing more (R140 (d), (e), R145). -/
theorem sendMask_ended (hok : mayEndWith i .ok = true) (hfail : mayEndWith i .transportFailure = true) (k : Nat)
    (m : Mode) (v : Mask) : OnNext (Ended i s) (s.sendMask k m v) := by
  unfold State.sendMask
  split
  · exact onNext_next.2 (.answered _ hok rfl rfl)
  · obtain ⟨r, hr, _, hvalid⟩ := transactAlone_record s k m v
    exact onNext_unlessFault (.called r hr (mayEndWith_of_not_validation hok hfail hvalid) hvalid)

/-- A single-channel operation has no mode to check (R140). -/
theorem setChannel_ended (hb : s.busy = false) (hrow : ∀ e, e ≠ .invalidMode → mayEndWith i e = true) (m : Mode)
    (chip channel : Nat) (enabled : Bool) : OnNext (Ended i s) (s.setChannel m chip channel enabled) := by
  rw [State.setChannel, whenIdle_of_idle hb]
  split
  · next e hv =>
    obtain ⟨_, _, hmode⟩ := validate_ne hv
    exact onNext_next.2 (raise_ended (hrow e (hmode rfl)))
  · exact sendMask_ended (hrow _ nofun) (hrow _ nofun) _ _ _

/-- A whole-mask operation has no channel to check (R146). -/
theorem setWhole_ended (hb : s.busy = false) (hrow : ∀ e, e ≠ .channelOutOfRange → mayEndWith i e = true)
    (chip : Nat) (mode : ModeCode) (mask : Mask) : OnNext (Ended i s) (s.setWhole chip mode mask) := by
  rw [State.setWhole, whenIdle_of_idle hb]
  split
  · next e hv =>
    obtain ⟨hchannel, _, _⟩ := validate_ne hv
    exact onNext_next.2 (raise_ended (hrow e (hchannel rfl)))
  · split
    · exact sendMask_ended (hrow _ nofun) (hrow _ nofun) _ _ _
    · exact onNext_next.2 (raise_ended (hrow _ nofun))

/-- BROADCAST checks the mode alone, and before the first chip (R166). -/
theorem execBroadcast_ended (hb : s.busy = false) (mode : ModeCode) (mask : Mask) :
    OnNext (Ended (.broadcast mode mask) s) (execBroadcast mode mask s) := by
  rw [execBroadcast, whenIdle_of_idle hb]
  split
  · next e hv =>
    obtain ⟨hchannel, hchip, _⟩ := validate_ne hv
    exact onNext_next.2 (raise_ended (by simp [mayEndWith, hchannel rfl, hchip rfl]))
  · split
    · next m _ =>
      rw [broadcastAll_eq_conclude]
      have hvalid := endStatus_not_validation (broadcastLoop m mask s.cfg.nChips 1 s.start).1
      exact onNext_unlessFault (.called _ rfl (mayEndWith_of_not_validation rfl rfl hvalid) hvalid)
    · exact onNext_next.2 (raise_ended rfl)

/-- CACHE_GET makes no call (R130). -/
theorem execCacheGet_ended (hb : s.busy = false) (chip : Nat) (mode : ModeCode) :
    OnNext (Ended (.cacheGet chip mode) s) (execCacheGet chip mode s) := by
  rw [execCacheGet, whenIdle_of_idle hb]
  split
  · next e hv =>
    obtain ⟨hchannel, _, _⟩ := validate_ne hv
    obtain ⟨_, _, hfail⟩ := validate_isValidation hv
    exact onNext_next.2 (raise_ended (by simp [mayEndWith, hchannel rfl, hfail]))
  · exact onNext_next.2 (.answered _ rfl rfl rfl)

/-- INIT checks nothing (R190, R191). -/
theorem execInit_ended (hb : s.busy = false) : OnNext (Ended .init s) (execInit s) := by
  rw [execInit, whenIdle_of_idle hb]
  split
  · exact onNext_next.2 (.answered _ rfl rfl rfl)
  · obtain ⟨r, hr, _, hvalid⟩ := initBus_record s
    exact onNext_unlessFault (.called r hr (mayEndWith_of_not_validation rfl rfl hvalid) hvalid)

/-- ENCODE answers at once, with the word or with `InvalidMode` (R113). -/
theorem exec_encode_ended (mode : ModeCode) (mask : Mask) :
    OnNext (Ended (.encode mode mask) s) (exec (.encode mode mask) s) := by
  cases hm : s.cfg.modeOf mode with
  | some m =>
    rw [exec_encode_of_modeOf hm]
    exact onNext_next.2 (.answered _ rfl rfl rfl)
  | none =>
    rw [exec_encode_of_modeOf_none hm]
    exact onNext_next.2 (.answered _ rfl rfl rfl)

/-- DECODE answers every word at once (R116). -/
theorem exec_decode_ended (w : Word) : OnNext (Ended (.decode w) s) (exec (.decode w) s) :=
  onNext_next.2 (.answered _ rfl rfl rfl)

/-- So ends every host operation that an idle block accepts. -/
theorem exec_ended (hi : isHostOperation i = true) (hb : s.busy = false) : OnNext (Ended i s) (exec i s) := by
  cases i with
  | init => exact execInit_ended hb
  | setProtection chip channel enabled =>
    exact setChannel_ended hb (fun _ => bne_iff_ne.2) .protect chip channel enabled
  | setDiagnostics chip channel enabled => exact setChannel_ended hb (fun _ => bne_iff_ne.2) .diag chip channel enabled
  | setOutput chip channel enabled => exact setChannel_ended hb (fun _ => bne_iff_ne.2) .output chip channel enabled
  | setMultiplePins chip mode mask => exact setWhole_ended hb (fun _ => bne_iff_ne.2) chip mode mask
  | targeted chip mode mask => exact setWhole_ended hb (fun _ => bne_iff_ne.2) chip mode mask
  | broadcast mode mask => exact execBroadcast_ended hb mode mask
  | cacheGet chip mode => exact execCacheGet_ended hb chip mode
  | reservedOp | wrProtect | wrDiag | wrOutput | reply | encode | decode | rev16 | cacheSet | transact
  | tInit | tSelect | tDeselect | tTransfer | enablePwm => cases hi

end

/-- Settles O45: by how the operation ends. -/
theorem operationsEndAsTheTableSays : Obligations.OperationsEndAsTheTableSays := by
  intro s t i hb hi ht
  obtain hhost | ⟨mode, mask, rfl⟩ | ⟨w, rfl⟩ := hi
  · exact (exec_ended hhost hb t ht).record
  · exact (exec_encode_ended mode mask t ht).record
  · exact (exec_decode_ended w t ht).record

/-- Settles O46: by how the operation ends; one that went through to the Transport has no validation error. -/
theorem validationErrorsChangeNothing : Obligations.ValidationErrorsChangeNothing := by
  intro s t i r hb hi ht hr hvalid
  obtain hhost | ⟨mode, mask, rfl⟩ := hi
  · exact (exec_ended hhost hb t ht).of_validation hr hvalid
  · exact (exec_encode_ended mode mask t ht).of_validation hr hvalid

end Sys2Proof.Machine

/-! PROOFS for 70_reset_and_hazards.md: the reset input (R230, R231), and the block between reset and its first
successful INIT (R232). -/

namespace Sys2Proof.Machine

/-! ### The reset input (R230, R231) -/

/-- Whatever the block is doing, the reset input standing first is taken and served by the very next step (R230). -/
theorem step_of_reset {s : State} {rest : List Input} (hin : s.env.inputs = .env .reset :: rest) :
    step s = .next (s.take rest).assertReset := by
  simp only [step, runNext, hin, State.disturb]

/-- Settles O60: the step is reset, and each field is read off from the state that reset leaves. -/
theorem resetInputAbandonsTheOperation : Obligations.ResetInputAbandonsTheOperation := by
  intro s rest hin
  exact ⟨(s.take rest).assertReset, step_of_reset hin, rfl, rfl, rfl, rfl, rfl, rfl, rfl, rfl, rfl, rfl, rfl, rfl⟩

/-! ### Before INIT (R232) -/

/-- CACHE_GET that fails a check gives its status and nothing else (R130, R209). -/
theorem exec_cacheGet_of_error {s : State} (hb : s.busy = false) {chip : Nat} {mode : ModeCode} {e : Status}
    (hv : s.validate none (some chip) (some mode) = some e) :
    exec (.cacheGet chip mode) s = .next (s.give { status := e }) := by
  show execCacheGet chip mode s = _
  rw [execCacheGet, whenIdle_of_idle hb, hv]; rfl

/-- Settles O48: by the operation; whether the block is initialised is the first check of every one of them. -/
theorem nothingRunsBeforeInit : Obligations.NothingRunsBeforeInit := by
  intro s i hb hu hi hne
  cases i with
  | init => exact absurd rfl hne
  | setProtection | setDiagnostics | setOutput => exact setChannel_of_error hb (validate_notInitialized hu ..) ..
  | setMultiplePins | targeted => exact setWhole_of_error hb (validate_notInitialized hu ..) ..
  | broadcast mode mask => exact exec_broadcast_of_error hb (validate_notInitialized hu ..) mask
  | cacheGet chip mode => exact exec_cacheGet_of_error hb (validate_notInitialized hu ..)
  | reservedOp | wrProtect | wrDiag | wrOutput | reply | encode | decode | rev16 | cacheSet | transact
  | tInit | tSelect | tDeselect | tTransfer | enablePwm => cases hi

end Sys2Proof.Machine

/-! PROOFS for 10_state.md sections 2 to 4 and 43_chain.md section 6: the invariant, which every step keeps (R20 to R33,
R176). A phase leaves a state of one of two kinds, in which the block handles a chip or none; for each kind it is said
once what the invariant asks of it. -/

namespace Sys2Proof.Machine

/-! ### What an idle block makes of a host operation -/

/-- What the host operation `i` comes to in the idle block `s` after its checks: an answer at once, which is never
`TransportFailure`; a request for a mask; a broadcast; or the bus initialisation. -/
inductive Granted (i : Instr) (s : State) : Prop
  | answered (r : Result) (hx : exec i s = .next (s.give r)) (hr : r.status ≠ .transportFailure)
  | chip (k : Nat) (m : Mode) (v : Mask) (ha : AsksFor s i k m v)
  | chain (mode : ModeCode) (m : Mode) (v : Mask) (hi : i = .broadcast mode v) (hinit : s.initialized = true)
      (hm : s.cfg.modeOf mode = some m)
  | bus (hi : i = .init) (hn : s.initialized = false)

section
variable {s : State}

/-- Passed checks: the mode code is recognised (R202). -/
theorem modeOf_of_validate {channel chip : Option Nat} {mode : ModeCode}
    (hv : s.validate channel chip (some mode) = none) : ∃ m, s.cfg.modeOf mode = some m := by
  cases hm : s.cfg.modeOf mode with
  | some m => exact ⟨m, rfl⟩
  | none =>
    simp only [State.validate, hm, Option.any_some, Option.isNone_none, if_true] at hv
    split_ifs at hv

/-- An error of the checks is answered at once. -/
theorem granted_of_error {i : Instr} {channel chip : Option Nat} {mode : Option ModeCode} {e : Status}
    (hv : s.validate channel chip mode = some e) (hx : exec i s = .next (s.give { status := e })) : Granted i s :=
  .answered _ hx (validate_isValidation hv).2.2

theorem granted_channel (hb : s.busy = false) (m : Mode) (chip channel : Nat) (enabled : Bool) :
    Granted (channelOp m chip channel enabled) s := by
  cases hv : s.validate (some channel) (some chip) none with
  | some e => exact granted_of_error hv ((exec_channelOp ..).trans (setChannel_of_error hb hv m enabled))
  | none =>
    obtain ⟨hi, hk⟩ := hasChip_of_validate hv
    exact .chip chip m _ ⟨hi, hk, .inl ⟨channel, enabled, channelValid_of_validate hv, rfl, rfl⟩⟩

theorem granted_whole (hb : s.busy = false) {i : Instr} {chip : Nat} {mode : ModeCode} {mask : Mask}
    (hi : i = .setMultiplePins chip mode mask ∨ i = .targeted chip mode mask) : Granted i s := by
  cases hv : s.validate none (some chip) (some mode) with
  | some e => exact granted_of_error hv ((exec_wholeMask hi s).trans (setWhole_of_error hb hv mask))
  | none =>
    obtain ⟨m, hm⟩ := modeOf_of_validate hv
    obtain ⟨hinit, hk⟩ := hasChip_of_validate hv
    exact .chip chip m mask ⟨hinit, hk, .inr ⟨mode, hm, hi⟩⟩

theorem granted_broadcast (hb : s.busy = false) (mode : ModeCode) (mask : Mask) :
    Granted (.broadcast mode mask) s := by
  cases hv : s.validate none none (some mode) with
  | some e => exact granted_of_error hv (exec_broadcast_of_error hb hv mask)
  | none =>
    obtain ⟨m, hm⟩ := modeOf_of_validate hv
    exact .chain mode m mask rfl (initialized_of_validate hv) hm

theorem granted_cacheGet (hb : s.busy = false) (chip : Nat) (mode : ModeCode) : Granted (.cacheGet chip mode) s := by
  cases hv : s.validate none (some chip) (some mode) with
  | some e => exact granted_of_error hv (exec_cacheGet_of_error hb hv)
  | none =>
    obtain ⟨m, hm⟩ := modeOf_of_validate hv
    obtain ⟨hinit, hk⟩ := hasChip_of_validate hv
    exact .answered _ (exec_cacheGet hb hinit hk hm) nofun

theorem granted_init (hb : s.busy = false) : Granted .init s := by
  cases hn : s.initialized with
  | true => exact .answered _ (exec_init_of_initialized hb hn) nofun
  | false => exact .bus rfl hn

/-- A host operation comes to nothing else. -/
theorem granted {i : Instr} (hi : isHostOperation i = true) (hb : s.busy = false) : Granted i s := by
  cases i with
  | init => exact granted_init hb
  | setProtection chip channel enabled => exact granted_channel hb .protect chip channel enabled
  | setDiagnostics chip channel enabled => exact granted_channel hb .diag chip channel enabled
  | setOutput chip channel enabled => exact granted_channel hb .output chip channel enabled
  | setMultiplePins chip mode mask => exact granted_whole hb (.inl rfl)
  | targeted chip mode mask => exact granted_whole hb (.inr rfl)
  | broadcast mode mask => exact granted_broadcast hb mode mask
  | cacheGet chip mode => exact granted_cacheGet hb chip mode
  | reservedOp | wrProtect | wrDiag | wrOutput | reply | encode | decode | rev16 | cacheSet | transact
  | tInit | tSelect | tDeselect | tTransfer | enablePwm => cases hi

end

/-! ### The invariant where no chip is handled -/

section
variable {s : State}

/-- No line is up where no chip is handled. -/
theorem Phase.lineUp_of_offChip {p : Phase} (h : p.onChip = false) : p.lineUp = false := by
  cases p with
  | idle | busInit | done => rfl
  | check | select | transfer | deselect | update => cases h

/-- And no word is pending. -/
theorem Phase.pending_of_offChip {p : Phase} (h : p.onChip = false) : p.pending = false := by
  cases p with
  | idle | busInit | done => rfl
  | check | select | transfer | deselect | update => cases h

/-- In the phases with no line up a transaction can start. -/
theorem State.Inv.quiet_of_lineDown (h : s.Inv) (hl : s.seq.phase.lineUp = false) : s.Quiet :=
  ⟨h.legal, h.cacheLength, h.periphLength, by rw [h.lines, State.properLines, hl]; rfl⟩

/-- The invariant in a phase in which no chip is handled. -/
theorem State.Quiet.inv_of_offChip (hq : s.Quiet) (hp : s.seq.phase.onChip = false)
    (hb : s.busy = decide (s.seq.phase ≠ .idle)) (he : s.seq.phase = .idle → s.replies = [] ∧ s.trace = [])
    (hz : s.initialized = false → s.cache = List.replicate s.cfg.nChips .zero)
    (hbus : s.seq.phase = .busInit → s.initialized = false) : s.Inv where
  legal := hq.legal
  cacheLength := hq.cacheLength
  periphLength := hq.periphLength
  lines := by rw [hq.lines, State.properLines, Phase.lineUp_of_offChip hp]; rfl
  busyPhase := hb
  idleEmpty := he
  zeroBefore := hz
  busInitBefore := hbus
  chipValid hon := absurd hon (by simp [hp])
  channelLatched _ _ hon := absurd hon (by simp [hp])
  wordLatched hpend := absurd hpend (by simp [Phase.pending_of_offChip hp])
  answeredOk hu := by rw [hu] at hp; cases hp

/-- The invariant of an operation that has ended (R28, R32). -/
theorem finish_inv (hq : s.Quiet) (hp : s.seq.phase = .idle) (hb : s.busy = false)
    (hz : s.initialized = false → s.cache = List.replicate s.cfg.nChips .zero) (e : Status) (f : Option Nat) :
    (s.finish e f).Inv := by
  refine State.Quiet.inv_of_offChip (s := s.finish e f) ⟨hq.legal, hq.cacheLength, hq.periphLength, hq.lines⟩ ?_ ?_
    (fun _ => ⟨rfl, rfl⟩) hz ?_ <;> rw [State.finish_seq, hp]
  · rfl
  · exact hb
  · nofun

/-- The invariant of an operation that has only to return its record. -/
theorem toDone_inv (hq : s.Quiet) (hb : s.busy = true)
    (hz : s.initialized = false → s.cache = List.replicate s.cfg.nChips .zero) (e : Status) (f : Option Nat) :
    (s.toDone e f).Inv :=
  State.Quiet.inv_of_offChip ⟨hq.legal, hq.cacheLength, hq.periphLength, hq.lines⟩ rfl hb nofun hz nofun

/-- `T_INIT` writes no state of the block (R183). -/
theorem tInit_quiet (hq : s.Quiet) : s.tInit.2.Quiet :=
  ⟨hq.legal, hq.cacheLength, (congrArg List.length s.env.dropInit_periph).trans hq.periphLength, hq.lines⟩

/-- A successful initialisation leaves one mask of 0x00 and one de-asserted line for each chip (R190). -/
theorem initialise_quiet (hq : s.Quiet) : s.initialise.Quiet :=
  ⟨hq.legal, List.length_replicate, hq.periphLength, rfl⟩

end

/-! ### The invariant where a chip is handled -/

/-- What holds of a busy block as long as it handles a chip, but for the lines and the latched word. -/
structure State.Handling (s : State) : Prop where
  legal : s.cfg.wf = true
  cacheLength : s.cache.length = s.cfg.nChips
  periphLength : s.env.periph.length = s.cfg.nChips
  busy : s.busy = true
  initialized : s.initialized = true
  chip : s.cfg.hasChip s.seq.cur = true
  channel : ∀ channel enabled, s.seq.pendChan = some (channel, enabled) →
    channelValid channel = true ∧ s.seq.pendAll = false

section
variable {s : State}

theorem Phase.ne_idle_of_onChip {p : Phase} (h : p.onChip = true) : p ≠ .idle := by
  rintro rfl
  cases h

theorem State.Inv.handling (h : s.Inv) (hp : s.seq.phase.onChip = true) : s.Handling where
  legal := h.legal
  cacheLength := h.cacheLength
  periphLength := h.periphLength
  busy := by simp [h.busyPhase, Phase.ne_idle_of_onChip hp]
  initialized := (h.chipValid hp).1
  chip := (h.chipValid hp).2
  channel channel enabled := h.channelLatched channel enabled hp

/-- Conversely, with the lines and the latched word it is the invariant. -/
theorem State.Handling.inv (h : s.Handling) (hp : s.seq.phase.onChip = true) (hlines : s.cs = s.properLines)
    (hword : s.seq.phase.pending = true →
      s.seq.pendWord = wireWord (s.cfg.code s.seq.pendMode) s.seq.pendMask ∧
        s.maskAt s.seq.cur s.seq.pendMode ≠ s.seq.pendMask)
    (hok : s.seq.phase = .update → s.seq.pendAns ≠ .fail) : s.Inv where
  legal := h.legal
  cacheLength := h.cacheLength
  periphLength := h.periphLength
  lines := hlines
  busyPhase := by simp [h.busy, Phase.ne_idle_of_onChip hp]
  idleEmpty hi := absurd hi (Phase.ne_idle_of_onChip hp)
  zeroBefore hn := absurd hn (by simp [h.initialized])
  busInitBefore hi := by rw [hi] at hp; cases hp
  chipValid _ := ⟨h.initialized, h.chip⟩
  channelLatched channel enabled _ := h.channel channel enabled
  wordLatched := hword
  answeredOk := hok

/-- It does not speak of the phase, the lines, the trace or the latched word and mask. -/
theorem State.Handling.congr {t : State} (h : s.Handling) (hcfg : t.cfg = s.cfg)
    (hcache : t.cache.length = s.cache.length) (hperiph : t.env.periph.length = s.env.periph.length)
    (hbusy : t.busy = s.busy) (hinit : t.initialized = s.initialized) (hcur : t.seq.cur = s.seq.cur)
    (hchannel : t.seq.pendChan = s.seq.pendChan) (hall : t.seq.pendAll = s.seq.pendAll) : t.Handling where
  legal := hcfg ▸ h.legal
  cacheLength := by rw [hcache, hcfg, h.cacheLength]
  periphLength := by rw [hperiph, hcfg, h.periphLength]
  busy := hbusy.trans h.busy
  initialized := hinit.trans h.initialized
  chip := by rw [hcfg, hcur, h.chip]
  channel := by rw [hchannel, hall]; exact h.channel

/-- `NEXT` keeps the invariant where no line is up. -/
theorem State.Handling.nextChip_inv (h : s.Handling) (hlines : s.cs = List.replicate s.cfg.nChips false) :
    s.nextChip.Inv :=
  Machine.nextChip_inv h.legal h.cacheLength h.periphLength hlines h.busy h.initialized h.chip h.channel

end

/-! ### The phases keep the invariant (R176) -/

section
variable {s : State}

theorem phaseBusInit_inv (h : s.Inv) (hp : s.seq.phase = .busInit) : s.phaseBusInit.Inv := by
  have hq := tInit_quiet (h.quiet_of_lineDown (by rw [hp]; rfl))
  have hb : s.busy = true := by simp [h.busyPhase, hp]
  unfold State.phaseBusInit
  dsimp only
  split
  · exact toDone_inv (initialise_quiet hq) hb (fun _ => rfl) _ _
  · exact toDone_inv hq hb h.zeroBefore _ _

theorem phaseCheck_inv (h : s.Inv) (hp : s.seq.phase = .check) : s.phaseCheck.Inv := by
  have hh := h.handling (by rw [hp]; rfl)
  have hlines := (h.quiet_of_lineDown (by rw [hp]; rfl)).lines
  unfold State.phaseCheck
  dsimp only
  split
  · exact State.Handling.nextChip_inv (hh.congr rfl rfl rfl rfl rfl rfl rfl rfl) hlines
  · next hne =>
    exact State.Handling.inv (hh.congr rfl rfl rfl rfl rfl rfl rfl rfl) rfl hlines (fun _ => ⟨rfl, hne⟩) nofun

theorem phaseSelect_inv (h : s.Inv) (hp : s.seq.phase = .select) : s.phaseSelect.Inv := by
  have hh := h.handling (by rw [hp]; rfl)
  have hlines : s.phaseSelect.cs = s.phaseSelect.properLines :=
    congrArg (·.set (s.seq.cur - 1) true) (h.quiet_of_lineDown (by rw [hp]; rfl)).lines
  exact State.Handling.inv (hh.congr rfl rfl rfl rfl rfl rfl rfl rfl) rfl hlines
    (fun _ => h.wordLatched (by rw [hp]; rfl)) nofun

theorem phaseTransfer_inv (h : s.Inv) (hp : s.seq.phase = .transfer) : s.phaseTransfer.Inv := by
  have hh := h.handling (by rw [hp]; rfl)
  obtain ⟨hshape, hperiph⟩ := tTransfer_shape s s.seq.pendWord
  unfold State.phaseTransfer
  dsimp only
  rw [hshape]
  exact State.Handling.inv (hh.congr rfl rfl hperiph rfl rfl rfl rfl rfl) rfl
    (h.lines_of_lineUp (by rw [hp]; rfl)) (fun _ => h.wordLatched (by rw [hp]; rfl)) nofun

theorem phaseDeselect_inv (h : s.Inv) (hp : s.seq.phase = .deselect) : s.phaseDeselect.Inv := by
  have hh := h.handling (by rw [hp]; rfl)
  have hlines : (s.tDeselect s.seq.cur).cs = List.replicate s.cfg.nChips false := by
    rw [State.tDeselect_cs, h.lines_of_lineUp (by rw [hp]; rfl)]
    simp
  unfold State.phaseDeselect
  dsimp only
  split
  · next ha =>
    refine State.Handling.inv (hh.congr rfl rfl rfl rfl rfl rfl rfl rfl) rfl hlines
      (fun _ => h.wordLatched (by rw [hp]; rfl)) fun _ => ?_
    simp [ha]
  · have hq : (s.tDeselect s.seq.cur).Quiet := ⟨hh.legal, hh.cacheLength, hh.periphLength, hlines⟩
    exact toDone_inv hq hh.busy h.zeroBefore _ _

theorem phaseUpdate_inv (h : s.Inv) (hp : s.seq.phase = .update) : s.phaseUpdate.Inv := by
  have hh := h.handling (by rw [hp]; rfl)
  have hq := h.quiet_of_lineDown (by rw [hp]; rfl)
  unfold State.phaseUpdate
  split
  · exact State.Handling.nextChip_inv (hh.congr rfl (setEntry_length ..) rfl rfl rfl rfl rfl rfl) hq.lines
  · exact toDone_inv hq hh.busy h.zeroBefore _ _

theorem phaseDone_inv (h : s.Inv) (hp : s.seq.phase = .done) : s.phaseDone.Inv := by
  have hq := h.quiet_of_lineDown (by rw [hp]; rfl)
  exact State.Quiet.inv_of_offChip ⟨hq.legal, hq.cacheLength, hq.periphLength, hq.lines⟩ rfl rfl
    (fun _ => ⟨rfl, rfl⟩) h.zeroBefore nofun

/-- What holds before a phase and after it holds whether it acts or waits for a hung Transport (R196). -/
theorem ite_hung {P : State → Prop} {t : State} (hs : P s) (ht : P t) : P (if s.env.hung then s else t) := by
  split
  · exact hs
  · exact ht

/-- Every phase keeps the invariant. -/
theorem advance_inv (h : s.Inv) : (advance s).Inv := by
  unfold advance
  cases hp : s.seq.phase with
  | idle => exact h
  | busInit => exact ite_hung h (phaseBusInit_inv h hp)
  | check => exact phaseCheck_inv h hp
  | select => exact ite_hung h (phaseSelect_inv h hp)
  | transfer => exact ite_hung h (phaseTransfer_inv h hp)
  | deselect => exact ite_hung h (phaseDeselect_inv h hp)
  | update => exact phaseUpdate_inv h hp
  | done => exact phaseDone_inv h hp

end

/-! ### A request keeps the invariant, at both levels -/

section
variable {s : State}

/-- One transaction as a whole operation. -/
theorem transactAlone_inv (h : s.Inv) (hb : s.busy = false) (hi : s.initialized = true) {k : Nat}
    (hk : s.cfg.hasChip k = true) (m : Mode) (v : Mask) : (s.transactAlone k m v).Inv := by
  obtain ⟨e, f, heq⟩ := transactAlone_eq_finish s k m v
  obtain ⟨_, _, hbusy, _, _, hseq⟩ := transact_env s.start k m v
  have hinit : (s.start.transact k m v).2.initialized = true := (s.start.transact_initialized k m v).trans hi
  rw [heq]
  exact finish_inv (transact_quiet (h.start_quiet hb) hk m v) (by rw [hseq]; exact h.phase_idle hb) (hbusy.trans hb)
    (fun hn => by rw [hinit] at hn; cases hn) e f

/-- The loop of a broadcast with its record. -/
theorem conclude_loop_inv (h : s.Inv) (hb : s.busy = false) (hi : s.initialized = true) (m : Mode) (v : Mask) :
    (conclude (broadcastLoop m v s.cfg.nChips 1 s.start)).Inv := by
  obtain ⟨hquiet, _, _⟩ := broadcastLoop_masks (h.start_quiet hb) m v
  obtain ⟨_, _, hbusy, _, _, hseq⟩ := broadcastLoop_env m v s.cfg.nChips 1 s.start
  have hinit : (broadcastLoop m v s.cfg.nChips 1 s.start).2.initialized = true :=
    (broadcastLoop_initialized ..).trans hi
  exact finish_inv hquiet (by rw [hseq]; exact h.phase_idle hb) (hbusy.trans hb)
    (fun hn => by rw [hinit] at hn; cases hn) _ _

/-- The bus initialisation. -/
theorem initBus_inv (h : s.Inv) (hb : s.busy = false) : s.initBus.Inv := by
  have hq := tInit_quiet (h.start_quiet hb)
  have hp := h.phase_idle hb
  unfold State.initBus
  dsimp only
  split
  · exact finish_inv (initialise_quiet hq) hp hb (fun _ => rfl) _ _
  · exact finish_inv hq hp hb h.zeroBefore _ _

/-- A host operation keeps the invariant at the operation level. -/
theorem exec_inv {i : Instr} (hi : isHostOperation i = true) (h : s.Inv) (hb : s.busy = false) :
    OnNext State.Inv (exec i s) := by
  cases granted hi hb with
  | answered r hx => rw [hx]; exact onNext_next.2 (give_inv h r)
  | chip k m v ha =>
    have ⟨hinit, hk, _⟩ := ha
    rw [exec_of_asksFor hb ha, State.sendMask]
    split
    · exact onNext_next.2 (give_inv h _)
    · exact onNext_unlessFault (transactAlone_inv h hb hinit hk m v)
  | chain mode m v hi hinit hm =>
    rw [hi, exec_broadcast hb hinit hm]
    exact onNext_unlessFault (conclude_loop_inv h hb hinit m v)
  | bus hi hn =>
    rw [hi, exec_init_of_not_initialized hb hn]
    exact onNext_unlessFault (initBus_inv h hb)

/-- An operation that starts with its first chip to be checked (R176). -/
theorem begin_check_inv (h : s.Inv) (hb : s.busy = false) (hi : s.initialized = true) {q : Sequencer}
    (hp : q.phase = .check) (hk : s.cfg.hasChip q.cur = true)
    (hchannel : ∀ channel enabled, q.pendChan = some (channel, enabled) →
      channelValid channel = true ∧ q.pendAll = false) : (s.begin q).Inv := by
  have hq := h.quiet hb
  have hh : (s.begin q).Handling := ⟨hq.legal, hq.cacheLength, hq.periphLength, rfl, hi, hk, hchannel⟩
  refine hh.inv ?_ ?_ ?_ ?_ <;> simp [State.properLines, hp, Phase.onChip, Phase.lineUp, Phase.pending, hq.lines]

/-- INIT that starts with the bus initialisation (R176). -/
theorem begin_busInit_inv (h : s.Inv) (hb : s.busy = false) (hn : s.initialized = false) :
    (s.begin { s.seq with phase := .busInit }).Inv := by
  have hq := h.quiet hb
  exact State.Quiet.inv_of_offChip ⟨hq.legal, hq.cacheLength, hq.periphLength, hq.lines⟩ rfl rfl nofun h.zeroBefore
    fun _ => hn

theorem acceptChannel_inv (h : s.Inv) (hb : s.busy = false) (m : Mode) (chip channel : Nat) (enabled : Bool) :
    (s.acceptChannel m chip channel enabled).Inv := by
  unfold State.acceptChannel
  split
  · exact give_inv h _
  · next hv =>
    obtain ⟨hi, hk⟩ := hasChip_of_validate hv
    refine begin_check_inv h hb hi rfl hk fun c e hc => ?_
    cases hc
    exact ⟨channelValid_of_validate hv, rfl⟩

theorem acceptWhole_inv (h : s.Inv) (hb : s.busy = false) (chip : Nat) (mode : ModeCode) (mask : Mask) :
    (s.acceptWhole chip mode mask).Inv := by
  unfold State.acceptWhole
  split
  · exact give_inv h _
  · next hv =>
    obtain ⟨hi, hk⟩ := hasChip_of_validate hv
    split
    · exact begin_check_inv h hb hi rfl hk nofun
    · exact give_inv h _

/-- The cursor of a broadcast starts at chip 1, which every chain has (D2). -/
theorem acceptBroadcast_inv (h : s.Inv) (hb : s.busy = false) (mode : ModeCode) (mask : Mask) :
    (s.acceptBroadcast mode mask).Inv := by
  unfold State.acceptBroadcast
  split
  · exact give_inv h _
  · next hv =>
    split
    · exact begin_check_inv h hb (initialized_of_validate hv) rfl (hasChip_iff.2 ⟨le_rfl, h.one_le_nChips⟩) nofun
    · exact give_inv h _

theorem acceptInit_inv (h : s.Inv) (hb : s.busy = false) : s.acceptInit.Inv := by
  unfold State.acceptInit
  split
  · exact give_inv h _
  · next hn => exact begin_busInit_inv h hb (Bool.eq_false_iff.2 hn)

/-- A host operation keeps the invariant at the event level. -/
theorem accept_inv {i : Instr} (hi : isHostOperation i = true) (h : s.Inv) (hb : s.busy = false) :
    OnNext State.Inv (accept i s) := by
  cases i with
  | init => exact onNext_next.2 (acceptInit_inv h hb)
  | setProtection chip channel enabled => exact onNext_next.2 (acceptChannel_inv h hb .protect chip channel enabled)
  | setDiagnostics chip channel enabled => exact onNext_next.2 (acceptChannel_inv h hb .diag chip channel enabled)
  | setOutput chip channel enabled => exact onNext_next.2 (acceptChannel_inv h hb .output chip channel enabled)
  | setMultiplePins chip mode mask => exact onNext_next.2 (acceptWhole_inv h hb chip mode mask)
  | targeted chip mode mask => exact onNext_next.2 (acceptWhole_inv h hb chip mode mask)
  | broadcast mode mask => exact onNext_next.2 (acceptBroadcast_inv h hb mode mask)
  | cacheGet chip mode => exact exec_inv hi h hb
  | reservedOp | wrProtect | wrDiag | wrOutput | reply | encode | decode | rev16 | cacheSet | transact
  | tInit | tSelect | tDeselect | tTransfer | enablePwm => cases hi

/-- A request keeps the invariant; a reserved selector changes nothing (R97). -/
theorem perform_decodeRequest_inv (h : s.Inv) (hb : s.busy = false) (r : Request) :
    OnNext State.Inv (s.perform (decodeRequest r)) := by
  unfold State.perform
  obtain hi | ⟨op, hop⟩ := decodeRequest_cases r
  · split
    · exact exec_inv hi h hb
    · exact accept_inv hi h hb
  · rw [hop]
    split <;> exact onNext_next.2 h

end

/-! ### One step keeps the invariant -/

/-- A word or a value on a port other than the host's changes the chips or the record alone. -/
theorem ServeOut.inv {s t : State} {p : Port} (h : s.Inv) (ht : ServeOut s p t) : t.Inv := by
  cases ht with
  | took w m v => exact chipsTake_inv h m v
  | gave r => exact give_inv h r
  | same => exact h

/-- A request standing first is taken by an idle block (R28). -/
theorem step_of_request {s : State} {r : Request} {rest : List Input}
    (hin : s.env.inputs = .port (.request r) :: rest) (hb : s.busy = false) :
    step s = (s.take rest).perform (decodeRequest r) := by
  simp [step, runNext, hin, hb]

/-- Settles O54: by what a step can bring; a request is followed through its checks, an operation in flight through its
phases. -/
theorem stepKeepsTheInvariant : Obligations.StepKeepsTheInvariant := by
  intro s t h ht
  have request {r : Request} {rest : List Input} (hin : s.env.inputs = .port (.request r) :: rest)
      (hb : s.busy = false) : t.Inv := by
    rw [step_of_request hin hb] at ht
    exact perform_decodeRequest_inv (take_inv h rest) hb r t ht
  cases step_out s t ht with
  | waited => exact clearResult_inv h
  | advanced => exact advance_inv (clearResult_inv h)
  | disturbed e rest => exact disturb_inv (take_inv h rest) e
  | ran r rest _ hin hb => exact request hin hb
  | accepted r rest _ hin hb => exact request hin hb
  | served p rest _ _ hs => exact hs.inv (take_inv h rest)

end Sys2Proof.Machine

/-! PROOFS for 92_eei_decisions.md D31: what a transfer does to the chips (R186), and the chips' agreement with the
cache, which every step keeps under the hazards H1 to H3 and H5. -/

namespace Sys2Proof.Machine

/-! ### What a transfer does to the chips (R186, D31) -/

section
variable {s : State}

/-- A command word reaches the selected chips (D31). -/
theorem busReceives_wireWord (hc : s.cfg.wf = true) (m : Mode) (v : Mask) :
    s.busReceives (wireWord (s.cfg.code m) v) = s.chipsTake m v := by
  rw [State.busReceives, commandFields_wireWord hc]

/-- Any other word is ignored (U9; assumption 21). -/
theorem busReceives_of_ne (hc : s.cfg.wf = true) {w : Word} (hw : ∀ m v, w ≠ wireWord (s.cfg.code m) v) :
    s.busReceives w = s := by
  obtain ⟨e, he⟩ := commandFields_error_of_ne hc hw
  rw [State.busReceives, he]

/-- A failed transfer reaches no chip (R58). -/
theorem tTransfer_of_fail (hn : s.nextTransfer = .fail) (w : Word) :
    (s.tTransfer w).2 = s.dropTransfer.emit (.transfer w .fail) := by
  rw [State.tTransfer, hn]

/-- A transfer answered ok is received (R186). -/
theorem tTransfer_of_ok {r : Word} (hn : s.nextTransfer = .ok r) (w : Word) :
    (s.tTransfer w).2 = (s.dropTransfer.emit (.transfer w (.ok r))).busReceives w := by
  rw [State.tTransfer, hn]

theorem tTransfer_periph_of_fail (hn : s.nextTransfer = .fail) (w : Word) :
    (s.tTransfer w).2.env.periph = s.env.periph := by
  rw [tTransfer_of_fail hn]
  exact s.env.dropTransfer_periph

theorem tTransfer_periph_of_wireWord (hc : s.cfg.wf = true) {r : Word} (hn : s.nextTransfer = .ok r) (m : Mode)
    (v : Mask) : (s.tTransfer (wireWord (s.cfg.code m) v)).2.env.periph = setSelected m v s.cs s.env.periph := by
  have hreceived := busReceives_wireWord (s := s.dropTransfer.emit (.transfer (wireWord (s.cfg.code m) v) (.ok r)))
    hc m v
  rw [tTransfer_of_ok hn]
  exact (congrArg (·.env.periph) hreceived).trans (congrArg (setSelected m v s.cs) s.env.dropTransfer_periph)

theorem tTransfer_periph_of_ne (hc : s.cfg.wf = true) {w : Word} (hw : ∀ m v, w ≠ wireWord (s.cfg.code m) v) :
    (s.tTransfer w).2.env.periph = s.env.periph := by
  cases hn : s.nextTransfer with
  | fail => exact tTransfer_periph_of_fail hn w
  | ok r =>
    rw [tTransfer_of_ok hn, busReceives_of_ne (s := s.dropTransfer.emit (.transfer w (.ok r))) hc hw]
    exact s.env.dropTransfer_periph

end

/-- Settles O39: the shape of a transfer is its law, and the chips follow the answer and the word. -/
theorem transferReachesTheSelectedChips : Obligations.TransferReachesTheSelectedChips := by
  intro s w hc hh
  obtain ⟨hshape, _⟩ := tTransfer_shape s w
  refine ⟨(s.tTransfer w).2, by rw [exec_tTransfer, hh]; rfl, hshape, fun hn => tTransfer_periph_of_fail hn w,
    fun r hn => ⟨fun m v hw => ?_, fun hw => tTransfer_periph_of_ne hc hw⟩⟩
  rw [hw]
  exact tTransfer_periph_of_wireWord hc hn m v

/-! ### Where the chips are to agree with the cache itself -/

section
variable {s t : State}

/-- Agreement speaks of the chips, the cache and the sequencer. -/
theorem State.Coherent.congr (h : s.Coherent) (hperiph : t.env.periph = s.env.periph) (hcache : t.cache = s.cache)
    (hseq : t.seq = s.seq) : t.Coherent := by
  unfold State.Coherent State.sentView State.aheadOfCache at h ⊢
  rw [hperiph, hcache, hseq]
  exact h

/-- Where no answer waits for its cache write, agreement is with the cache itself. -/
theorem coherent_iff (hd : s.seq.phase ≠ .deselect) (hu : s.seq.phase ≠ .update) :
    s.Coherent ↔ s.env.periph = s.cache := by
  rw [State.Coherent, sentView_eq_cache hd hu]

theorem coherent_iff_of_idle (hp : s.seq.phase = .idle) : s.Coherent ↔ s.env.periph = s.cache :=
  coherent_iff (by simp [hp]) (by simp [hp])

theorem coherent_of_phase {p : Phase} (hp : s.seq.phase = p) (hd : p ≠ .deselect) (hu : p ≠ .update)
    (h : s.env.periph = s.cache) : s.Coherent :=
  (coherent_iff (hp ▸ hd) (hp ▸ hu)).2 h

theorem toDone_coherent (h : s.env.periph = s.cache) (e : Status) (f : Option Nat) : (s.toDone e f).Coherent :=
  coherent_of_phase (p := .done) rfl nofun nofun h

theorem nextChip_coherent (h : s.env.periph = s.cache) : s.nextChip.Coherent := by
  unfold State.nextChip
  split
  · exact coherent_of_phase (p := .check) rfl nofun nofun h
  · exact toDone_coherent h _ _

end

/-! ### Phases and operations keep the agreement -/

section
variable {s : State}

/-- INIT runs before initialisation only, and then the masks that it zeroes are 0x00 already (R36). -/
theorem phaseBusInit_coherent (hs : s.Inv) (hp : s.seq.phase = .busInit) (h : s.env.periph = s.cache) :
    s.phaseBusInit.Coherent := by
  have hzero := hs.zeroBefore (hs.busInitBefore hp)
  unfold State.phaseBusInit
  dsimp only
  split
  · exact toDone_coherent ((s.env.dropInit_periph.trans h).trans hzero) _ _
  · exact toDone_coherent (s.env.dropInit_periph.trans h) _ _

theorem phaseCheck_coherent (h : s.env.periph = s.cache) : s.phaseCheck.Coherent := by
  unfold State.phaseCheck
  dsimp only
  split
  · exact nextChip_coherent h
  · exact coherent_of_phase (p := .select) rfl nofun nofun h

/-- Around the transfer the line of `cur` alone is up, so a word reaches that chip alone (R27). -/
theorem setSelected_of_lineUp (hs : s.Inv) (hl : s.seq.phase.lineUp = true) (m : Mode) (v : Mask) :
    setSelected m v s.cs s.env.periph = setEntry s.env.periph s.seq.cur m v := by
  obtain ⟨h1, hn⟩ := hasChip_iff.1 (hs.chipValid (Phase.onChip_of_lineUp hl)).2
  rw [hs.lines_of_lineUp hl, setSelected_one m v _ _ _ hs.periphLength (by omega)]
  rfl

/-- The chip that takes the latched mask is the one whose entry of the view takes it (R33). -/
theorem phaseTransfer_coherent (hs : s.Inv) (hp : s.seq.phase = .transfer) (h : s.env.periph = s.cache) :
    s.phaseTransfer.Coherent := by
  have hseq := s.phaseTransfer_seq
  have hword : s.seq.pendWord = wireWord (s.cfg.code s.seq.pendMode) s.seq.pendMask :=
    (hs.wordLatched (by rw [hp]; rfl)).1
  have hperiph : s.phaseTransfer.env.periph = (s.tTransfer s.seq.pendWord).2.env.periph := rfl
  rw [State.Coherent, hperiph]
  cases hn : s.nextTransfer with
  | ok r =>
    rw [sentView_of_ok (.inl rfl) (r := r) (by rw [hseq, hn]), State.phaseTransfer_cache, hseq, hword,
      tTransfer_periph_of_wireWord hs.legal hn, setSelected_of_lineUp hs (by rw [hp]; rfl), h]
  | fail =>
    rw [sentView_of_fail (by rw [hseq, hn]), State.phaseTransfer_cache, tTransfer_periph_of_fail hn, h]

/-- The view does not depend on the line. -/
theorem phaseDeselect_coherent (hp : s.seq.phase = .deselect) (h : s.Coherent) : s.phaseDeselect.Coherent := by
  rw [State.Coherent] at h
  unfold State.phaseDeselect
  dsimp only
  split
  · next r ha =>
    rw [sentView_of_ok (.inl hp) ha] at h
    rw [State.Coherent, sentView_of_ok (.inr rfl) (r := r) (by simpa using ha)]
    exact h
  · next ha =>
    rw [sentView_of_fail ha] at h
    exact toDone_coherent (s := s.tDeselect s.seq.cur) h _ _

/-- The cache write makes the cache what the view was (R33). -/
theorem phaseUpdate_coherent (hp : s.seq.phase = .update) (h : s.Coherent) : s.phaseUpdate.Coherent := by
  rw [State.Coherent] at h
  unfold State.phaseUpdate
  split
  · next ha =>
    rw [sentView_of_ok (.inr hp) ha] at h
    exact nextChip_coherent h
  · next ha =>
    rw [sentView_of_fail ha] at h
    exact toDone_coherent h _ _

/-- Every phase keeps the agreement. -/
theorem advance_coherent (hs : s.Inv) (h : s.Coherent) : (advance s).Coherent := by
  have cached (hd : s.seq.phase ≠ .deselect) (hu : s.seq.phase ≠ .update) : s.env.periph = s.cache :=
    (coherent_iff hd hu).1 h
  unfold advance
  cases hp : s.seq.phase with
  | idle => exact h
  | busInit => exact ite_hung h (phaseBusInit_coherent hs hp (cached (by simp [hp]) (by simp [hp])))
  | check => exact phaseCheck_coherent (cached (by simp [hp]) (by simp [hp]))
  | select =>
    exact ite_hung h (coherent_of_phase (p := .transfer) rfl nofun nofun (cached (by simp [hp]) (by simp [hp])))
  | transfer => exact ite_hung h (phaseTransfer_coherent hs hp (cached (by simp [hp]) (by simp [hp])))
  | deselect => exact ite_hung h (phaseDeselect_coherent hp h)
  | update => exact phaseUpdate_coherent hp h
  | done => exact coherent_of_phase (p := .idle) rfl nofun nofun (cached (by simp [hp]) (by simp [hp]))

/-- A transaction writes the chip and the cache alike, or neither (R161). -/
theorem transact_periph_eq_cache (hq : s.Quiet) {k : Nat} (hk : s.cfg.hasChip k = true) (m : Mode) (v : Mask)
    (h : s.env.periph = s.cache) : (s.transact k m v).2.env.periph = (s.transact k m v).2.cache := by
  cases hn : s.nextTransfer with
  | ok r => simp only [State.transact_ok hq hk hn, h]
  | fail =>
    rw [State.transact_fail hq hn]
    exact s.env.dropTransfer_periph.trans h

/-- So does the loop of a broadcast. -/
theorem broadcastLoop_periph_eq_cache (hq : s.Quiet) (m : Mode) (v : Mask) (h : s.env.periph = s.cache) :
    (broadcastLoop m v s.cfg.nChips 1 s).2.env.periph = (broadcastLoop m v s.cfg.nChips 1 s).2.cache := by
  obtain ⟨o, t, es, hloop, _, _, _, _, hagree, _⟩ :=
    broadcastLoop_spec m v s.cfg.nChips 1 s hq le_rfl (Nat.add_comm ..)
  rw [hloop]
  exact hagree h

theorem initBus_periph (s : State) : s.initBus.env.periph = s.env.periph := by
  unfold State.initBus
  dsimp only
  split <;> exact s.env.dropInit_periph

/-- A host operation at once keeps the agreement. -/
theorem HostOut.coherent {i : Instr} {t : State} (ht : HostOut i s t) (hs : s.Inv) (hb : s.busy = false)
    (h : s.Coherent) : t.Coherent := by
  have hp := hs.phase_idle hb
  have quiet := hs.start_quiet hb
  have cached : s.start.env.periph = s.start.cache := (coherent_iff_of_idle hp).1 h
  cases ht with
  | same => exact h
  | gave => exact h.congr rfl rfl rfl
  | transacted k m v _ hk =>
    obtain ⟨e, f, heq⟩ := transactAlone_eq_finish s k m v
    rw [coherent_iff_of_idle (by rw [State.transactAlone_seq, hp]), heq]
    exact transact_periph_eq_cache quiet hk m v cached
  | broadcasted m v =>
    obtain ⟨e, f, heq⟩ := broadcastAll_eq_finish s m v
    rw [coherent_iff_of_idle (by rw [State.broadcastAll_seq, hp]), heq]
    exact broadcastLoop_periph_eq_cache quiet m v cached
  | initialised _ _ hn => exact h.congr (initBus_periph s) (initBus_cache hs hn) (State.initBus_seq s)

/-- A request accepted at the event level writes neither side. -/
theorem AcceptOut.coherent {t : State} (ht : AcceptOut s t) (hs : s.Inv) (hb : s.busy = false) (h : s.Coherent) :
    t.Coherent := by
  cases ht with
  | same => exact h
  | gave => exact h.congr rfl rfl rfl
  | begun q hq =>
    have cached : s.env.periph = s.cache := (coherent_iff_of_idle (hs.phase_idle hb)).1 h
    refine (coherent_iff (s := s.begin q) ?_ ?_).2 cached <;> obtain hq | hq := hq <;> simp [hq]

/-- A port other than the host's reaches the chips only by a word of another master (H5). -/
theorem ServeOut.coherent {p : Port} {t : State} (ht : ServeOut s p t) (hp : ∀ w, p ≠ .busWord w) (h : s.Coherent) :
    t.Coherent := by
  cases ht with
  | took w m v hw => exact absurd hw (hp w)
  | gave => exact h.congr rfl rfl rfl
  | same => exact h

/-- Of the events of the environment only reset (H1) and a chip that changes on its own (H3) break it. -/
theorem disturb_coherent {e : EnvEvent} (hreset : e ≠ .reset) (hchip : ∀ k regs, e ≠ .chipChanges k regs)
    (h : s.Coherent) : (s.disturb e).Coherent := by
  cases e with
  | reset => exact absurd rfl hreset
  | transportHangs => exact h.congr rfl rfl rfl
  | chipChanges k regs => exact absurd rfl (hchip k regs)

end

/-- Settles O56: by what a step can bring; the hazards exclude the inputs that write the chips alone. -/
theorem chipsAgreeWithTheCache : Obligations.ChipsAgreeWithTheCache := by
  intro s t hs h hu ht
  have taken (rest : List Input) : (s.take rest).Coherent := h.congr rfl rfl rfl
  cases step_out s t ht with
  | waited => exact h.congr rfl rfl rfl
  | advanced => exact advance_coherent (clearResult_inv hs) (h.congr rfl rfl rfl)
  | disturbed e rest hi =>
    obtain ⟨hreset, hchip, _⟩ := hu _ _ hi
    exact disturb_coherent (by simpa using hreset) (by simpa using hchip) (taken rest)
  | ran r rest _ hi hb hout => exact hout.coherent (take_inv hs rest) hb (taken rest)
  | accepted r rest _ hi hb hout => exact hout.coherent (take_inv hs rest) hb (taken rest)
  | served p rest _ hi hout =>
    obtain ⟨_, _, hword⟩ := hu _ _ hi
    exact hout.coherent (by simpa using hword) (taken rest)

end Sys2Proof.Machine

/-! PROOFS for 20_memory.md section 2 (the order of bits in time, R54, R55) and 30_encoding.md (requests and words, and
what they decode to, R93 to R95). -/

namespace Sys2Proof

/-! ### The order of bits in time (R54, R55, D5) -/

/-- The bits in time, cut into the fields that a wire word has: a mask, a code and an address. -/
theorem serialBits_eq_append (w : Word) : serialBits w =
    ((List.range 8).map fun i => w.getLsbD (15 - i)) ++ ((List.range 4).map fun j => w.getLsbD (7 - j)) ++
      ((List.range 4).map fun j => w.getLsbD (3 - j)) := rfl

/-- The bits in time of a wire word (R54, R114). -/
theorem serialBits_wireWord (code : ModeCode) (mask : Mask) : serialBits (wireWord code mask) =
    (List.range 8).map mask.getLsbD ++ (List.range 4).map code.getLsbD ++ [false, true, false, true] := by
  have haddress : ∀ j < 4, (wireWord code mask).getLsbD (3 - j) = (0b0101#4).getLsbD (3 - j) := fun j hj => by
    have hlow : 3 - j < 4 := by omega
    rw [← wireWord_address code mask, BitVec.getLsbD_extractLsb', Nat.zero_add]
    simp only [hlow, decide_true, Bool.true_and]
  rw [serialBits_eq_append]
  congr 1
  · congr 1
    · exact List.map_congr_left fun i hi => getLsbD_wireWord_mask code mask (List.mem_range.1 hi)
    · exact List.map_congr_left fun j hj => getLsbD_wireWord_code code mask (List.mem_range.1 hj)
  · exact (List.map_congr_left fun j hj => haddress j (List.mem_range.1 hj)).trans (by decide)

/-- The next bit in time shifted in after the top `n` bits of a value makes its top `n + 1` bits (R55). -/
theorem shiftConcat_ushiftRight (w : Word) {n : Nat} (hn : n < 16) :
    (w >>> (16 - n)).shiftConcat (w.getLsbD (15 - n)) = w >>> (15 - n) := by
  apply BitVec.eq_of_getLsbD_eq
  intro i hi
  rw [BitVec.getLsbD_shiftConcat]
  cases i with
  | zero => simp
  | succ i =>
    have hbit : 16 - n + i = 15 - n + (i + 1) := by omega
    simp [hi, hbit]

/-- The first `n` bits in time assemble to the top `n` bits of the value (R55). -/
theorem assemble_firstBits (w : Word) : ∀ n ≤ 16,
    (List.range n).foldl (fun acc i => acc.shiftConcat (w.getLsbD (15 - i))) 0#16 = w >>> (16 - n)
  | 0, _ => by
    apply BitVec.eq_of_getLsbD_eq
    intro i _
    simp
  | n + 1, hn => by
    rw [List.range_succ, List.foldl_append, assemble_firstBits w n (by omega),
      show 16 - (n + 1) = 15 - n by omega]
    exact shiftConcat_ushiftRight w (by omega)

/-- Transport assembles what it sent (R55). -/
theorem assembleBits_serialBits (w : Word) : assembleBits (serialBits w) = w := by
  rw [assembleBits, serialBits, List.foldl_map, assemble_firstBits w 16 le_rfl]
  exact BitVec.ushiftRight_zero w

/-- Settles O9: by the fields of a wire word, and by the number of bits received for the assembly. -/
theorem leastSignificantBitTravelsFirst : Obligations.LeastSignificantBitTravelsFirst := by
  refine ⟨serialBits_wireWord, assembleBits_serialBits, fun w => ?_⟩
  rw [serialBits_eq_append, List.append_assoc, List.take_left' (by simp)]
  exact List.map_congr_left fun i hi => getLsbD_frameDecode w i (List.mem_range.1 hi)

/-! ### Decoding what is presented (R94, R95) -/

/-- A reserved selector decodes to itself (R97). -/
theorem decodeRequest_reserved {r : Request} (h : 8 ≤ r.op.toNat) : decodeRequest r = .reservedOp r.op := by
  unfold decodeRequest
  split
  case h_9 => rfl
  all_goals omega

/-- The wire word of a mode decodes to the write of that mode (R95). -/
theorem decodeWire_wireWord {c : Config} (hc : c.wf = true) (m : Mode) (v : Mask) :
    decodeWire c (wireWord (c.code m) v) = .ok (writeInstr m v) :=
  (decodeWire_eq_ok_iff c _ _).2 ⟨m, v, rfl, commandFields_wireWord hc m v⟩

/-- Settles O10: by the instruction; a bus word by the fields of its wire word. -/
theorem decodeUndoesEncode : Obligations.DecodeUndoesEncode := by
  intro c i p hc hi hp
  cases i with
  | reservedOp op =>
    cases hp
    exact congrArg Except.ok (decodeRequest_reserved (r := { op }) (of_decide_eq_true hi))
  | wrProtect v => cases hp; exact decodeWire_wireWord hc .protect v
  | wrDiag v => cases hp; exact decodeWire_wireWord hc .diag v
  | wrOutput v => cases hp; exact decodeWire_wireWord hc .output v
  | init | setProtection | setDiagnostics | setOutput | setMultiplePins | targeted | broadcast | cacheGet | reply
  | encode | decode | enablePwm => cases hp; rfl
  | rev16 | cacheSet | transact | tInit | tSelect | tDeselect | tTransfer => cases hp

/-- Settles O12: by the selector, compared as the decoder does, by its number; each row of the table reads only fields
on which the two records agree. -/
theorem unreadRequestFieldsAreIgnored : Obligations.UnreadRequestFieldsAreIgnored := by
  intro r r' hop hchip hchannel hmode hmask
  unfold decodeRequest
  rw [← hop]
  split <;> simp_all [BitVec.toNat_eq]

/-- Settles O13: by computation; no word here asks for the codes of the parameters without a body. -/
theorem writtenOutWordsDecode : Obligations.WrittenOutWordsDecode := by
  refine ⟨rfl, rfl, rfl, rfl, ?_, ?_, ?_, ?_, ?_, ?_, ?_⟩ <;> decide

end Sys2Proof

/-! PROOFS for 00_scope.md section 3 and 43_chain.md section 6: what a step runs (R9, R176, R231), what it leaves on the
ports while the block is busy (R28), and the calls that a phase makes (R175). -/

namespace Sys2Proof.Machine

/-! ### What a step runs -/

section
variable {s : State} {rest : List Input}

/-- What stands first on a port other than the host's is served at any time (R120). -/
theorem step_of_port {p : Port} (hin : s.env.inputs = .port p :: rest) (hp : ∀ r, p ≠ .request r) :
    step s = (s.take rest).serve p := by
  cases p with
  | request r => exact absurd rfl (hp r)
  | busWord | replyWord | encodePort | decodePort | pwmPort => simp only [step, runNext, hin]

/-- Served is the instruction that it decodes to. -/
theorem serve_of_ok {p : Port} {i : Instr} (h : decodeInput s.cfg p = .ok i) : s.serve p = exec i s := by
  rw [State.serve, h]

/-- At the operation level an operation is one step (R9). -/
theorem perform_of_operation (hl : s.level = .operation) (i : Instr) : s.perform i = exec i s := by
  rw [State.perform, hl]

/-- At the event level it begins with the phase `IDLE` (R9, R176). -/
theorem perform_of_event (hl : s.level = .event) (i : Instr) : s.perform i = accept i s := by
  rw [State.perform, hl]

/-- A request waits while the block is busy, which goes on with its operation (R28). -/
theorem step_of_request_of_busy {r : Request} (hin : s.env.inputs = .port (.request r) :: rest)
    (hb : s.busy = true) : step s = .next (advance s.clearResult) := by
  simp only [step, runNext, hin, hb, if_true]

/-- With nothing presented an idle block waits (R176). -/
theorem step_of_idle (hin : s.env.inputs = []) (hb : s.busy = false) : step s = .next s.clearResult := by
  simp [step, runNext, hin, hb]

end

/-- Settles O14: a step by what stands first on the inputs. -/
theorem stepRunsTheDecodedInstruction : Obligations.StepRunsTheDecodedInstruction := by
  refine ⟨fun s r rest hin hb => ?_, fun s p rest i hin hp hi => ?_, fun s => step_of_idle⟩
  · rw [step_of_request hin hb]
    exact ⟨fun hl => perform_of_operation (s := s.take rest) hl _,
      fun hl => perform_of_event (s := s.take rest) hl _⟩
  · exact (step_of_port hin hp).trans (serve_of_ok (s := s.take rest) hi)

/-- A port other than the host's is only put first (assumption 4). -/
theorem present_of_port {p : Port} (hp : ∀ r, p ≠ .request r) (s : State) :
    s.present p = { s with env := { s.env with inputs := .port p :: s.env.inputs } } := by
  cases p with
  | request r => exact absurd rfl (hp r)
  | busWord | replyWord | encodePort | decodePort | pwmPort => rfl

/-- Settles O15: by whether the word is placed as a request, which also makes the block idle, or on another port. -/
theorem placedWordIsRunNext : Obligations.PlacedWordIsRunNext := by
  obtain ⟨request, port, _⟩ := stepRunsTheDecodedInstruction
  intro s nbits w i hi
  rw [State.withFetchWord]
  by_cases hp : ∀ r, tablePort s.cfg nbits w ≠ .request r
  · refine ⟨{ s with result := none }, ?_, rfl, rfl, rfl, rfl, rfl, rfl, rfl, rfl, fun _ _ _ => rfl⟩
    rw [present_of_port hp]
    exact port _ _ s.env.inputs i rfl hp hi
  · push Not at hp
    obtain ⟨r, hr⟩ := hp
    rw [hr] at hi ⊢
    cases hi
    refine ⟨{ s with busy := false, level := .operation, seq := { s.seq with phase := .idle }, result := none }, ?_,
      rfl, rfl, rfl, rfl, rfl, rfl, rfl, rfl, fun hb hl hp => ?_⟩
    · exact (request (s.present (.request r)) r s.env.inputs rfl rfl).1 rfl
    · rw [← hb, ← hl, ← hp]

/-! ### A busy block does not look at its ports (R28) -/

/-- The state with other inputs to come. -/
def State.withInputs (s : State) (is : List Input) : State := { s with env := { s.env with inputs := is } }

section
variable (s : State) (is : List Input)

theorem dropInit_withInputs : (s.withInputs is).dropInit = s.dropInit.withInputs is := by
  simp only [State.dropInit, State.withInputs, Env.dropInit]
  split <;> rfl

theorem dropTransfer_withInputs : (s.withInputs is).dropTransfer = s.dropTransfer.withInputs is := by
  simp only [State.dropTransfer, State.withInputs, Env.dropTransfer]
  split <;> rfl

theorem busReceives_withInputs (w : Word) : (s.withInputs is).busReceives w = (s.busReceives w).withInputs is := by
  have hcfg : (s.withInputs is).cfg = s.cfg := rfl
  rw [State.busReceives, State.busReceives, hcfg]
  cases commandFields s.cfg (rev16 w) <;> rfl

theorem tTransfer_withInputs (w : Word) :
    ((s.withInputs is).tTransfer w).2 = (s.tTransfer w).2.withInputs is := by
  have hn : (s.withInputs is).nextTransfer = s.nextTransfer := rfl
  cases hans : s.nextTransfer with
  | ok r =>
    rw [tTransfer_of_ok (hn.trans hans), tTransfer_of_ok hans, dropTransfer_withInputs]
    exact busReceives_withInputs (s.dropTransfer.emit _) is w
  | fail => rw [tTransfer_of_fail (hn.trans hans), tTransfer_of_fail hans, dropTransfer_withInputs]; rfl

theorem nextChip_withInputs : (s.withInputs is).nextChip = s.nextChip.withInputs is := by
  have hlast : (s.withInputs is).lastChip = s.lastChip := rfl
  have hseq : (s.withInputs is).seq = s.seq := rfl
  rw [State.nextChip, State.nextChip, hlast, hseq]
  split <;> rfl

theorem phaseBusInit_withInputs : (s.withInputs is).phaseBusInit = s.phaseBusInit.withInputs is := by
  have hn : (s.withInputs is).nextInit = s.nextInit := rfl
  rw [State.phaseBusInit, State.phaseBusInit, State.tInit, State.tInit, hn, dropInit_withInputs]
  cases s.nextInit <;> rfl

theorem phaseCheck_withInputs : (s.withInputs is).phaseCheck = s.phaseCheck.withInputs is := by
  have hmask : (s.withInputs is).checkMask = s.checkMask := rfl
  have hheld : (s.withInputs is).maskAt = s.maskAt := rfl
  have hseq : (s.withInputs is).seq = s.seq := rfl
  unfold State.phaseCheck
  rw [hmask, hheld, hseq]
  dsimp only
  split
  · exact nextChip_withInputs { s with seq := { s.seq with pendMask := s.checkMask } } is
  · rfl

theorem phaseTransfer_withInputs : (s.withInputs is).phaseTransfer = s.phaseTransfer.withInputs is := by
  have hseq : (s.withInputs is).seq = s.seq := rfl
  unfold State.phaseTransfer
  dsimp only
  rw [hseq, tTransfer_withInputs]
  rfl

theorem phaseDeselect_withInputs : (s.withInputs is).phaseDeselect = s.phaseDeselect.withInputs is := by
  have hseq : (s.withInputs is).seq = s.seq := rfl
  unfold State.phaseDeselect
  rw [hseq]
  cases s.seq.pendAns <;> rfl

theorem phaseUpdate_withInputs : (s.withInputs is).phaseUpdate = s.phaseUpdate.withInputs is := by
  have hseq : (s.withInputs is).seq = s.seq := rfl
  unfold State.phaseUpdate
  rw [hseq]
  cases s.seq.pendAns with
  | ok r =>
    exact nextChip_withInputs ((s.cacheSet s.seq.cur s.seq.pendMode s.seq.pendMask).addReply s.seq.cur r) is
  | fail => rfl

/-- A phase does the same whatever is to come on the inputs, and leaves it there. -/
theorem advance_withInputs : advance (s.withInputs is) = (advance s).withInputs is := by
  have call {t t' : State} (h : t = t'.withInputs is) :
      (if (s.withInputs is).env.hung then s.withInputs is else t) = (if s.env.hung then s else t').withInputs is := by
    rw [h, apply_ite fun u : State => u.withInputs is]
    rfl
  have hseq : (s.withInputs is).seq = s.seq := rfl
  unfold advance
  rw [hseq]
  cases s.seq.phase with
  | idle | done => rfl
  | busInit => exact call (phaseBusInit_withInputs s is)
  | check => exact phaseCheck_withInputs s is
  | select => exact call rfl
  | transfer => exact call (phaseTransfer_withInputs s is)
  | deselect => exact call (phaseDeselect_withInputs s is)
  | update => exact phaseUpdate_withInputs s is

/-- In particular it takes no input. -/
theorem advance_inputs : (advance s).env.inputs = s.env.inputs :=
  congrArg (·.env.inputs) (advance_withInputs s s.env.inputs)

end

/-- At the operation level a busy block holds off every host operation (R28). -/
theorem exec_of_busy {s : State} (hb : s.busy = true) {i : Instr} (hi : isHostOperation i = true) :
    exec i s = .next s := by
  have held (body : Host.Outcome State Fault Refusal) : s.whenIdle body = .next s := if_pos hb
  cases i with
  | init | setProtection | setDiagnostics | setOutput | setMultiplePins | targeted | broadcast | cacheGet =>
    exact held _
  | reservedOp | wrProtect | wrDiag | wrOutput | reply | encode | decode | rev16 | cacheSet | transact
  | tInit | tSelect | tDeselect | tTransfer | enablePwm => cases hi

/-- Settles O16: a busy block goes on with its phase, which does not look at the inputs. -/
theorem busyBlockHoldsRequestsOff : Obligations.BusyBlockHoldsRequestsOff := by
  refine ⟨fun s i hb hi => exec_of_busy hb hi, fun s r rest hb hin => ?_⟩
  refine ⟨advance s.clearResult, step_of_request_of_busy hin hb, advance_inputs s.clearResult, ?_⟩
  exact (step_of_busy (s := s.withInputs []) hb rfl).trans
    (congrArg Host.Outcome.next (advance_withInputs s.clearResult []))

/-! ### The calls of a phase (R175) -/

/-- At most one event is added. -/
def AddsAtMostOne (s t : State) : Prop := t.trace = s.trace ∨ ∃ e, t.trace = s.trace ++ [e]

section
variable {s : State}

theorem nextChip_trace (s : State) : s.nextChip.trace = s.trace := by
  unfold State.nextChip
  split <;> rfl

theorem phaseBusInit_trace (s : State) : s.phaseBusInit.trace = s.trace ++ [.init s.nextInit] := by
  unfold State.phaseBusInit
  dsimp only
  split <;> rfl

theorem phaseCheck_trace (s : State) : s.phaseCheck.trace = s.trace := by
  unfold State.phaseCheck
  dsimp only
  split
  · exact nextChip_trace _
  · rfl

theorem phaseDeselect_trace (s : State) : s.phaseDeselect.trace = s.trace ++ [.deselect s.seq.cur] := by
  unfold State.phaseDeselect
  dsimp only
  split <;> rfl

theorem phaseUpdate_trace (s : State) : s.phaseUpdate.trace = s.trace := by
  unfold State.phaseUpdate
  split
  · exact nextChip_trace _
  · rfl

/-- Every phase but `DONE` makes one call, or none (R175). -/
theorem advance_addsAtMostOne (hp : s.seq.phase ≠ .done) : AddsAtMostOne s (advance s) := by
  have call {t : State} {e : Event} (h : t.trace = s.trace ++ [e]) :
      AddsAtMostOne s (if s.env.hung then s else t) := ite_hung (.inl rfl) (.inr ⟨e, h⟩)
  unfold advance
  cases hq : s.seq.phase with
  | idle => exact .inl rfl
  | busInit => exact call (phaseBusInit_trace s)
  | check => exact .inl (phaseCheck_trace s)
  | select => exact call rfl
  | transfer => exact call (State.phaseTransfer_trace s)
  | deselect => exact call (phaseDeselect_trace s)
  | update => exact .inl (phaseUpdate_trace s)
  | done => exact absurd hq hp

end

/-- Settles O52: the step of a busy block is its phase. -/
theorem eachPhaseMakesAtMostOneCall : Obligations.EachPhaseMakesAtMostOneCall := by
  intro s t _ hb hin ht
  rw [step_of_busy hb hin] at ht
  cases ht
  refine ⟨advance_addsAtMostOne (s := s.clearResult), fun hp => ?_⟩
  have hdone : advance s.clearResult = s.clearResult.phaseDone := by rw [advance, State.clearResult_seq, hp]
  rw [hdone]
  exact ⟨rfl, rfl, rfl⟩

end Sys2Proof.Machine

/-! PROOFS for 41_cache.md (CACHE_GET, R130) and 43_chain.md (micro-operations outside the chain, R50; a broadcast that
fails, R169). -/

namespace Sys2Proof.Machine

/-! ### CACHE_GET (R130) -/

/-- Settles O17: the errors by the order of the checks, then the mask. -/
theorem cacheGetReturnsTheCachedMask : Obligations.CacheGetReturnsTheCachedMask := by
  intro s chip mode hb
  refine ⟨fun hi => ?_, fun hi hk => ?_, fun hi hk1 hkn hm => ?_, fun m hi hk1 hkn hm => ?_⟩
  · exact exec_cacheGet_of_error hb (validate_notInitialized hi ..)
  · exact exec_cacheGet_of_error hb (validate_unknownChip (channel := none) hi (by simp) (hasChip_eq_false_iff.2 hk) _)
  · exact exec_cacheGet_of_error hb (validate_invalidMode hi (hasChip_iff.2 ⟨hk1, hkn⟩) hm)
  · exact exec_cacheGet hb hi (hasChip_iff.2 ⟨hk1, hkn⟩) hm

/-! ### Micro-operations outside the chain -/

/-- What a micro-operation does on a chip of the chain, it does not do outside (assumption 11). -/
theorem outside_the_chain {s : State} {k : Nat} (hk : s.cfg.hasChip k = false)
    (body : Host.Outcome State Fault Refusal) :
    (if s.cfg.hasChip k then body else .fault .noSuchChip) = .fault .noSuchChip := by
  rw [hk]; rfl

/-- Settles O19: each of the four first looks for its chip. -/
theorem microOperationsStopOutsideTheChain : Obligations.MicroOperationsStopOutsideTheChain := by
  intro s k m v hk
  have stops := outside_the_chain (hasChip_eq_false_iff.2 hk)
  exact ⟨stops _, stops _, stops _, stops _⟩

/-! ### A broadcast that fails (R169, R171) -/

section
variable (m : Mode) (v : Mask)

/-- With no failure among the first chips the others are served next. -/
theorem serveChips_append_of_none {ks' : List Nat} : ∀ {ks : List Nat} {s : State}, (serveChips m v ks s).1 = none →
    serveChips m v (ks ++ ks') s = serveChips m v ks' (serveChips m v ks s).2
  | [], _, _ => rfl
  | k :: ks, s, h => by
    cases htr : (s.transact k m v).1 with
    | true =>
      simp only [serveChips, htr, if_true] at h
      simp only [List.cons_append, serveChips, htr, if_true]
      exact serveChips_append_of_none h
    | false => simp [serveChips, htr] at h

/-- Serving chips leaves the block ready for another transaction. -/
theorem serveChips_quiet : ∀ {ks : List Nat} {s : State}, s.Quiet → (∀ k ∈ ks, s.cfg.hasChip k = true) →
    (serveChips m v ks s).2.Quiet
  | [], _, hq, _ => hq
  | k :: ks, s, hq, hks => by
    obtain ⟨hk, hks⟩ := List.forall_mem_cons.1 hks
    have sent := transact_quiet hq hk m v
    rw [serveChips]
    split
    · exact serveChips_quiet sent (by rwa [State.transact_cfg])
    · exact sent

/-- The first failed transfer ends the loop with its chip's index, whatever chips are left (R169). -/
theorem serveChips_of_fail {s : State} (hq : s.Quiet) (hn : s.nextTransfer = .fail) (k : Nat) (ks : List Nat) :
    serveChips m v (k :: ks) s = (some k, { s.dropTransfer with
      trace := s.trace ++ transactionEvents k (wireWord (s.cfg.code m) v) .fail }) := by
  rw [serveChips, State.transact_fail hq hn]
  rfl

/-- Served with ok answers and then a failure: the chips before take the mask, and the index is that of the chip that
failed (R169, R171). -/
theorem serveChips_of_ok_fail {ks ks' : List Nat} {k : Nat} {rs : List Word} {rest : List TransferAnswer} {s : State}
    (hq : s.Quiet) (hks : ∀ j ∈ ks, s.cfg.hasChip j = true) (hlen : rs.length = ks.length)
    (hanswers : s.env.transferAnswers = rs.map .ok ++ .fail :: rest) :
    serveChips m v (ks ++ k :: ks') s = (some k, { s with
      cache := takeAll m v s.cache ks
      env := { s.env with periph := takeAll m v s.env.periph ks, transferAnswers := rest }
      replies := s.replies ++ okReplies ks rs
      trace := s.trace ++ okEvents (wireWord (s.cfg.code m) v) ks rs ++
        transactionEvents k (wireWord (s.cfg.code m) v) .fail }) := by
  have hserved := serveChips_of_ok m v hq hks hlen hanswers
  have hquiet := serveChips_quiet m v hq hks
  rw [serveChips_append_of_none m v (by rw [hserved]), serveChips_of_fail m v hquiet (by rw [hserved]; rfl), hserved]
  rfl

end

/-- A list cut at one of its elements. -/
theorem eq_take_append_of_getElem? {l : List Nat} {n k : Nat} (h : l[n]? = some k) :
    l = l.take n ++ k :: l.drop (n + 1) := by
  obtain ⟨hn, rfl⟩ := List.getElem?_eq_some_iff.1 h
  rw [← List.drop_eq_getElem_cons hn, List.take_append_drop]

/-- Settles O31: the chips to serve, cut at the one that fails. -/
theorem broadcastStopsAtTheFirstFailure : Obligations.BroadcastStopsAtTheFirstFailure := by
  intro s mode m mask rs rest k h hb hh hi hm hk hanswers ks w
  have hcode : mode = s.cfg.code m := (modeOf_eq_some_iff h.legal mode m).1 hm
  have hchips : ∀ j ∈ ks, s.start.cfg.hasChip j = true := fun j hj =>
    (mem_chipsToServe.1 (List.mem_of_mem_take hj)).1
  obtain ⟨hlt, _⟩ := List.getElem?_eq_some_iff.1 hk
  have hlen : rs.length = ks.length := (List.length_take_of_le hlt.le).symm
  have hserved := serveChips_of_ok_fail m mask (k := k) (ks' := (chipsToServe s m mask).drop (rs.length + 1))
    (h.start_quiet hb) hchips hlen hanswers
  obtain ⟨hreplies, htrace⟩ := h.idleEmpty (h.phase_idle hb)
  rw [exec_broadcast_of_answering hb hi hm hh, broadcastLoop_eq_chipsToServe (h.start_quiet hb),
    eq_take_append_of_getElem? hk, hserved]
  simp [conclude, endStatus, State.finish, State.start, hreplies, htrace, ks, w, hcode]

end Sys2Proof.Machine

/-! PROOFS for 60_exceptions.md: after `TransportFailure` (R211, R213), and the numbers of the statuses (R200). -/

namespace Sys2Proof.Machine

/-! ### After `TransportFailure` (R211, R213) -/

/-- What R211 and R213 say of the record with which the operation `i`, accepted in `s`, ends in `t`. -/
def FailsCleanly (i : Instr) (s t : State) : Prop :=
  ∀ r, t.result = some r → r.status = .transportFailure →
    ((∀ mode mask, i ≠ .broadcast mode mask) → t.cache = s.cache) ∧
    (∀ k, r.failIndex = some k → chipEntry t.cache k = chipEntry s.cache k ∧ t.initialized = true) ∧
    (r.failIndex = none → i = .init ∧ t.cache = s.cache) ∧
    t.cs = List.replicate s.cfg.nChips false ∧ t.initialized = s.initialized ∧ t.busy = false

section
variable {s : State}

/-- A failed transaction with one chip (R211). -/
theorem AsksFor.failsCleanly {i : Instr} {k : Nat} {m : Mode} {v : Mask} (ha : AsksFor s i k m v) (h : s.Inv)
    (hb : s.busy = false) : OnNext (FailsCleanly i s) (exec i s) := by
  intro t ht r hr hfail
  have ⟨hinit, _, _⟩ := ha
  obtain ⟨_, rfl⟩ | ⟨_, _, ⟨w, rfl⟩ | rfl⟩ := ha.cases h hb ht <;> cases hr
  · cases hfail
  · cases hfail
  · exact ⟨fun _ => rfl, fun _ _ => ⟨rfl, hinit⟩, nofun, (h.quiet hb).lines, rfl, hb⟩

/-- A broadcast that failed at a chip, whose masks are as before (R170, R211). -/
theorem conclude_loop_failsCleanly (h : s.Inv) (hb : s.busy = false) (hinit : s.initialized = true)
    (mode : ModeCode) (m : Mode) (v : Mask) :
    FailsCleanly (.broadcast mode v) s (conclude (broadcastLoop m v s.cfg.nChips 1 s.start)) := by
  intro r hr hfail
  obtain ⟨hquiet, hothers, hend⟩ := broadcastLoop_masks (h.start_quiet hb) m v
  obtain ⟨_, _, hbusy, _, hcfg, _⟩ := broadcastLoop_env m v s.cfg.nChips 1 s.start
  have hkept : (broadcastLoop m v s.cfg.nChips 1 s.start).2.initialized = s.initialized :=
    broadcastLoop_initialized ..
  have hlines : (broadcastLoop m v s.cfg.nChips 1 s.start).2.cs = List.replicate s.cfg.nChips false := by
    rw [hquiet.lines, hcfg]; rfl
  cases hr
  obtain ⟨ho, _⟩ | ⟨f, ho, hf, _, _, hafter⟩ := hend
  · simp [ho, endStatus] at hfail
  · refine ⟨fun hne => absurd rfl (hne mode v), fun k hk => ⟨?_, hkept.trans hinit⟩,
      fun hn => by simp [ho] at hn, hlines, hkept, hbusy.trans hb⟩
    cases ho.symm.trans hk
    refine ChipState.ext_get fun m' => ?_
    by_cases hm : m' = m
    · rw [hm]; exact hafter f le_rfl
    · exact hothers f m' (hasChip_iff.1 hf).1 hm

/-- A failed bus initialisation (R192). -/
theorem initBus_failsCleanly (h : s.Inv) (hb : s.busy = false) : FailsCleanly .init s s.initBus := by
  intro r hr hfail
  cases hn : s.nextInit with
  | ok =>
    rw [initBus_ok h hb hn] at hr
    cases hr
    cases hfail
  | fail =>
    rw [initBus_fail h hb hn] at hr ⊢
    cases hr
    exact ⟨fun _ => rfl, nofun, fun _ => ⟨rfl, rfl⟩, (h.quiet hb).lines, rfl, hb⟩

end

/-- Settles O47: by what the operation comes to; only a call of the Transport fails. -/
theorem transportFailureLeavesTheCacheUntouched : Obligations.TransportFailureLeavesTheCacheUntouched := by
  intro s t i r h hb hi ht hr hfail
  suffices clean : OnNext (FailsCleanly i s) (exec i s) from clean t ht r hr hfail
  cases granted hi hb with
  | answered r hx hne =>
    rw [hx]
    refine onNext_next.2 fun r' hr' hfail' => ?_
    cases hr'
    exact absurd hfail' hne
  | chip k m v ha => exact ha.failsCleanly h hb
  | chain mode m v hi hinit hm =>
    rw [hi, exec_broadcast hb hinit hm]
    exact onNext_unlessFault (conclude_loop_failsCleanly h hb hinit mode m v)
  | bus hi hn =>
    rw [hi, exec_init_of_not_initialized hb hn]
    exact onNext_unlessFault (initBus_failsCleanly h hb)

/-! ### The numbers of the statuses (R200) -/

/-- Settles O44: status by status. -/
theorem statusNumbersAreDistinct : Obligations.StatusNumbersAreDistinct := by
  refine ⟨rfl, rfl, rfl, rfl, rfl, rfl, fun e => ?_, fun e => ?_⟩
  · cases e <;> rfl
  · cases e <;> decide

end Sys2Proof.Machine

/-! PROOFS for 10_state.md section 5: the state after reset (R36). -/

namespace Sys2Proof.Machine

/-- The parameters of which nothing is known are legal (R85, D2). -/
theorem built_wf : Config.built.wf = true := Laws.Config.ofSeeds_wf ..

/-- After reset the chips are at their power-on default, which is what the cache says (H1). -/
theorem init_coherent (c : Config) : (State.init c).Coherent := rfl

/-- After reset no word was sent (R23). -/
theorem init_reflects (c : Config) : (State.init c).Reflects [] := (reflects_iff_of_idle rfl).2 (tracks_nil c)

/-- Settles O58: every field is written out in the state after reset; there is a chip, as the parameters are legal. -/
theorem resetLeavesTheStateOfTheRule : Obligations.ResetLeavesTheStateOfTheRule :=
  ⟨rfl, rfl, fun _ _ => get_chipEntry_zero .., rfl, rfl, (init_inv built_wf).one_le_nChips⟩

/-- Settles O59: for any legal parameters, of which those of `State.reset` are some. -/
theorem resetMeetsTheInvariant : Obligations.ResetMeetsTheInvariant :=
  ⟨init_inv built_wf, init_coherent _, init_reflects _,
    fun c hc => ⟨init_inv hc, init_coherent c, init_reflects c⟩⟩

end Sys2Proof.Machine
